-- ==== Sys2Proof/Word.lean ====
section
/-! DEFINITION. The widths of SMRF: a byte, a sample, a command word, a wire frame (00_scope R6, 30_encoding R91, R96). -/

namespace Sys2Proof

/-- The transfer unit and the width of a sensor register (R6). -/
abbrev Byte := BitVec 8

/-- The pattern of a raw axis sample (R6, R24). -/
abbrev Sample := BitVec 16

/-- A host command word (R96). -/
abbrev CommandWord := BitVec 32

/-- A wire frame, the header byte in the high half (R91). -/
abbrev FrameWord := BitVec 16

end Sys2Proof
end

