-- ==== Sys2Proof/Syntax.lean ====
section
/-! DEFINITION. The seven commands (00_scope R2, 30_encoding R100), the two wire frames (30_encoding R91), the words
that encode them, and the bus events of a trace (10_state R44). -/

namespace Sys2Proof

/-- One constructor per row of `spec/opcode_table.json`. An address is a plain number: R69 speaks of an abstract
address above 127, and R193 adds to the base as an unbounded integer. -/
inductive Instr where
  /-- `INIT cfg` (R122); `cfg` is CFGI, nine bits (R99). -/
  | init (cfg : BitVec 9)
  /-- `SELECT` (R126). -/
  | select
  /-- `DESELECT` (R128). -/
  | deselect
  /-- `XFER data` (R130). -/
  | xfer (data : Byte)
  /-- `RDREG addr` (R184). -/
  | rdreg (addr : Nat)
  /-- `WRREG addr, data` (R188). -/
  | wrreg (addr : Nat) (data : Byte)
  /-- `RDAXES base` (R192). -/
  | rdaxes (base : Nat)
  /-- `RDFRAME`: the two bytes a register read puts on the bus (R91). -/
  | rdframe (addr : Nat)
  /-- `WRFRAME`: the two bytes a register write puts on the bus (R91). -/
  | wrframe (addr : Nat) (data : Byte)
  deriving DecidableEq, Repr

/-- The two encodings of R90. -/
inductive CodeWord where
  /-- The host command word of R96. -/
  | command (w : CommandWord)
  /-- The wire frame of R91, written as one pattern of 16 bits. -/
  | frame (w : FrameWord)
  deriving DecidableEq, Repr

/-- A bus event of TRACE (R44). -/
inductive BusEvent where
  | select
  /-- `out` was sent and `received` came back in the same transfer. -/
  | send (out received : Byte)
  | deselect
  deriving DecidableEq, Repr

end Sys2Proof
end

