-- ==== Sys2Proof/Config.lean ====
section
/-! DEFINITION. The values the spec leaves open: the slave's answers (20_memory R66), the level of SDO before the first
transfer (41_shifter_wire R164), the level of SCK inside INIT (40_bus_driver R125), and what a register that holds no value
shows (60_exceptions R215). All are opaque, so a claim holds for every value of them. -/

namespace Sys2Proof

/-- FREE VALUE (notes/assumptions/2.md). The normative oracle of R66: the byte the environment answers, given the history
before the transfer, the byte being sent and a free input `choice` that is new at every transfer. Safe. -/
opaque Config.slave (trace : List BusEvent) (out : Byte) (choice : Nat) : Byte

/-- FREE VALUE (notes/assumptions/5.md). The level at which SDO is driven between INIT and the first transfer, which R164
leaves undefined; `true` is level 1. Safe. -/
opaque Config.sdoAfterInit (choice : Nat) : Bool

/-- FREE VALUE (notes/assumptions/16.md). The level at which SCK is driven between steps 3 and 4 of INIT, which R125 leaves
undefined. Safe. -/
opaque Config.sckInInit (choice : Nat) : Bool

/-- The registers that hold no value after reset (R22, R49). -/
inductive DataRegister where
  | cfg
  | rxd
  | axisX
  | axisY
  | axisZ
  | txsr
  | rxsr
  | lob
  | cmdr
  deriving DecidableEq, Repr

/-- FREE VALUE (notes/assumptions/6.md). What a read of a register that holds no value gives: the hardware "returns some
value" (R215, 93_implementation_defined U7); `choice` is new at every such read, and the register's bits are the low ones.
Safe. -/
opaque Config.unwritten (register : DataRegister) (choice : Nat) : BitVec 32

end Sys2Proof
end

