-- ==== Sys2Proof/WellFormed.lean ====
section
/-! DEFINITION. Which abstract instructions have an encoding (20_memory R69, 30_encoding R98). -/

namespace Sys2Proof

/-- The address fits the seven bits of its field (R98). -/
def addressFits (a : Nat) : Bool := decide (a ≤ 127)

/-- An instruction is well formed when every address in it fits its field. Whether a command is accepted (a legal
configuration, a base of at most 122, an open frame) is the machine's matter, not this check's (R99, R193). -/
def WellFormed : Instr → Bool
  | .init _ => true
  | .select => true
  | .deselect => true
  | .xfer _ => true
  | .rdreg a => addressFits a
  | .wrreg a _ => addressFits a
  | .rdaxes b => addressFits b
  | .rdframe a => addressFits a
  | .wrframe a _ => addressFits a

end Sys2Proof
end

