-- ==== Sys2Proof/Decode.lean ====
section
/-! DEFINITION. The decoder of command words (30_encoding R96 to R102) and of wire frames (R91, R94), total on every word
and rejecting by name, and after it the encoder, written from the same tables. -/

namespace Sys2Proof

/-- Why a word is `Reserved` (R102). -/
inductive DecodeError where
  /-- OP is 0x0 or 0x8 to 0xF. -/
  | reservedOpcode
  /-- A bit the format does not use is 1. -/
  | mustBeZero
  /-- A read frame whose second byte is not the dummy byte: SMRF's framer never produces it (R93). -/
  | dummyNotZero
  deriving DecidableEq, Repr

/-- OP, bits 31:28 (R96). -/
def opField (w : CommandWord) : Nat := (w.extractLsb' 28 4).toNat

/-- ADDR, bits 14:8, an unsigned number taken as it stands (R98). -/
def addrField (w : CommandWord) : Nat := (w.extractLsb' 8 7).toNat

/-- DATA, bits 7:0 (R98). -/
def dataField (w : CommandWord) : Byte := w.extractLsb' 0 8

/-- CFGI, bits 8:0 (R99). -/
def cfgiField (w : CommandWord) : BitVec 9 := w.extractLsb' 0 9

/-- The instruction `i`, if the word matches its row of R100: `w & mask = match`. -/
def ifRowMatches (w mask pattern : CommandWord) (i : Instr) : Except DecodeError Instr :=
  if w &&& mask = pattern then .ok i else .error .mustBeZero

/-- The procedure of R101: the row by OP, then its mask and match, then the fields. -/
def decodeCommand (w : CommandWord) : Except DecodeError Instr :=
  match opField w with
  | 1 => ifRowMatches w 0xFFFFFE00#32 0x10000000#32 (.init (cfgiField w))
  | 2 => ifRowMatches w 0xFFFFFFFF#32 0x20000000#32 .select
  | 3 => ifRowMatches w 0xFFFFFFFF#32 0x30000000#32 .deselect
  | 4 => ifRowMatches w 0xFFFFFF00#32 0x40000000#32 (.xfer (dataField w))
  | 5 => ifRowMatches w 0xFFFF80FF#32 0x50000000#32 (.rdreg (addrField w))
  | 6 => ifRowMatches w 0xFFFF8000#32 0x60000000#32 (.wrreg (addrField w) (dataField w))
  | 7 => ifRowMatches w 0xFFFF80FF#32 0x70000000#32 (.rdaxes (addrField w))
  | _ => .error .reservedOpcode

/-- RW, bit 7 of the header byte: 1 is a read (R91, R94). -/
def frameRead (w : FrameWord) : Bool := w.getLsbD 15

/-- ADDR, bits 6:0 of the header byte (R91, R94). -/
def frameAddr (w : FrameWord) : Nat := (w.extractLsb' 8 7).toNat

/-- DATA, the second byte (R91). -/
def frameData (w : FrameWord) : Byte := w.extractLsb' 0 8

/-- The frame a pattern of 16 bits is (R91): a read frame has the dummy byte 0x00 for its second byte (R93). -/
def decodeFrame (w : FrameWord) : Except DecodeError Instr :=
  if frameRead w then
    if frameData w = 0#8 then .ok (.rdframe (frameAddr w)) else .error .dummyNotZero
  else .ok (.wrframe (frameAddr w) (frameData w))

/-- The decoder of both encodings (R90). -/
def decode : CodeWord → Except DecodeError Instr
  | .command w => decodeCommand w
  | .frame w => decodeFrame w

/-- The seven-bit field of an address. -/
def addressBits (a : Nat) : BitVec 7 := BitVec.ofNat 7 a

/-- A command word from its opcode, its ADDR field and its DATA field (R96, formats N, D, A, AD). -/
def commandOf (op : BitVec 4) (addr : BitVec 7) (data : Byte) : CommandWord :=
  op ++ 0#13 ++ addr ++ data

/-- A command word of format C (R96). -/
def configCommandOf (op : BitVec 4) (cfg : BitVec 9) : CommandWord := op ++ 0#19 ++ cfg

/-- A wire frame from its flag, address and data byte (R91). -/
def frameOf (rw : Bool) (addr : BitVec 7) (data : Byte) : FrameWord := BitVec.ofBool rw ++ addr ++ data

/-- The word of an instruction; of a well-formed one, the word that decodes to it (R101). -/
def encode : Instr → CodeWord
  | .init cfg => .command (configCommandOf 1#4 cfg)
  | .select => .command (commandOf 2#4 0#7 0#8)
  | .deselect => .command (commandOf 3#4 0#7 0#8)
  | .xfer d => .command (commandOf 4#4 0#7 d)
  | .rdreg a => .command (commandOf 5#4 (addressBits a) 0#8)
  | .wrreg a d => .command (commandOf 6#4 (addressBits a) d)
  | .rdaxes b => .command (commandOf 7#4 (addressBits b) 0#8)
  | .rdframe a => .frame (frameOf true (addressBits a) 0#8)
  | .wrframe a d => .frame (frameOf false (addressBits a) d)

/-- The word CMDR holds while the instruction runs (R27): the command's own word; for a wire frame the word of the one
command that puts this frame on the bus (notes/assumptions/9.md). -/
def commandWord : Instr → CommandWord
  | .init cfg => configCommandOf 1#4 cfg
  | .select => commandOf 2#4 0#7 0#8
  | .deselect => commandOf 3#4 0#7 0#8
  | .xfer d => commandOf 4#4 0#7 d
  | .rdreg a => commandOf 5#4 (addressBits a) 0#8
  | .wrreg a d => commandOf 6#4 (addressBits a) d
  | .rdaxes b => commandOf 7#4 (addressBits b) 0#8
  | .rdframe a => commandOf 5#4 (addressBits a) 0#8
  | .wrframe a d => commandOf 6#4 (addressBits a) d

/-- The code word of a table row's bits: a command has 32 bits, a wire frame 16 (`spec/opcode_table.json`). -/
def tableWord (nbits w : Nat) : Option CodeWord :=
  if nbits = 32 then some (.command (BitVec.ofNat 32 w))
  else if nbits = 16 then some (.frame (BitVec.ofNat 16 w))
  else none

/-- What the decoder reads from a table row's bits; `none` where it refuses. -/
def decodeTableWord (nbits w : Nat) : Option Instr :=
  match tableWord nbits w with
  | some c => (decode c).toOption
  | none => none

end Sys2Proof
end

