-- ==== Sys2Proof/Machine/State.lean ====
section
/-! DEFINITION. The state of SMRF (10_state R20), the model's own fields for the parameters of its step relation (R47), the
reasons a step stops (60_exceptions R214, R216), the record of reads that found no value (R215), and the state after reset (R49). -/

namespace Sys2Proof.Machine

/-- The drive state of an output pin (R21): not driven, or driven to level 0 (`false`) or 1 (`true`). -/
inductive Pin where
  | released
  | driven (level : Bool)
  deriving DecidableEq, Repr

/-- The sequencer's place in a transaction (R36). -/
inductive Seq where
  | idle
  | select
  | addr
  | data
  | deselect
  deriving DecidableEq, Repr

/-- The values of AI (R37): 0 is X, 1 is Y, 2 is Z. -/
inductive Axis where
  | x
  | y
  | z
  deriving DecidableEq, Repr

/-- One thing per axis: the registers AXIS[0], AXIS[1], AXIS[2] (R24). -/
structure PerAxis (α : Type) where
  x : α
  y : α
  z : α
  deriving DecidableEq, Repr

/-- Which data registers hold a value (R22): a register holds none from reset until the first rule that writes it. CFG's
fields hold a value exactly when CFG.EN is 1, so they need no flag; RXSR is filled bit by bit (R156) and has one flag a
bit. -/
structure Held where
  rxd : Bool
  axis : PerAxis Bool
  txsr : Bool
  rxsr : Byte
  lob : Bool
  cmdr : Bool
  deriving DecidableEq, Repr

/-- What the host asks of the block while it is idle (60_exceptions R226). -/
inductive HostRequest where
  /-- A word to run: a command word, or a wire frame (notes/assumptions/9.md). -/
  | present (c : CodeWord)
  /-- `HostRead(n)`, n a register number (R28). -/
  | read (n : Fin 16)
  /-- The host lets time pass. -/
  | pause
  deriving DecidableEq, Repr

/-- The MODEL's own fields: the parameters of the step relation (R47) as plain data. -/
structure Env where
  /-- The requests the host has still to make, the next one first. -/
  program : List HostRequest
  /-- Bytes the slave has already chosen, the next answer first; when it is empty, `Config.slave` answers. -/
  answers : List Byte
  /-- How many transfers have been answered: the oracle's `choice` (R66). -/
  draws : Nat
  /-- How many more edges the clock gives before it stops; `none`: it does not stop. ClockRunning (R48) is false exactly
  at `some 0`. -/
  clock : Option Nat
  /-- The clock's later runs, each beginning after the stop of the one before it (R216). -/
  clockLater : List (Option Nat)
  deriving DecidableEq, Repr

/-- The state of SMRF (R20). -/
structure State where
  /-- Chip select, active low (R21, R43). -/
  csn : Pin
  /-- Serial clock (R21). -/
  sck : Pin
  /-- Serial data out (R21). -/
  sdo : Pin
  /-- The byte received by the last completed transfer (R23). -/
  rxd : Byte
  /-- The assembled samples (R24). -/
  axis : PerAxis Sample
  /-- The byte going out (R25). -/
  txsr : Byte
  /-- The byte coming in (R25). -/
  rxsr : Byte
  /-- The low byte of the axis being read (R26). -/
  lob : Byte
  /-- The command being executed (R27). -/
  cmdr : CommandWord
  /-- The configuration register (R29). -/
  cfg : BitVec 16
  /-- The status register (R39). -/
  stat : BitVec 16
  /-- The sequencer state (R36). -/
  seq : Seq
  /-- The axis being read (R37). -/
  ai : Axis
  /-- False while the low byte is read, true while the high byte is (R37). -/
  hl : Bool
  /-- Serial-clock edges done in the current transfer, 0 to 16 (R38). -/
  edge : Nat
  /-- The bus events since reset, oldest first; ghost state (R44). -/
  trace : List BusEvent
  /-- Which registers hold a value (R22). -/
  held : Held
  /-- A transfer is in progress: it has started and not completed (implied by R152; notes/assumptions/8.md). -/
  shifting : Bool
  /-- The model's own fields for the host and the environment. -/
  env : Env
  /-- The model's own: the value the last HostRead gave (notes/assumptions/18.md). -/
  hostData : Option (BitVec 16)
  /-- How many times the fault UnwrittenRead has been recorded: reads of a register that holds no value. Never cleared; the
  run has ended well only if it is 0 (R215, R227). -/
  unwrittenReads : Nat
  deriving DecidableEq, Repr

/-- Why the machine stops with a fault. -/
inductive Fault where
  /-- Raised by `step` when a transfer waits for a clock that the environment never gives again: no step is enabled (R216).
  Safe: the hardware hangs here too. -/
  | stuck
  /-- Raised by `step` in a state with SEQ ≠ IDLE in which CMDR holds no command that waits in a transfer. No run reaches
  it (the invariant `Inv` excludes it). Safe. -/
  | lostSequencer
  deriving DecidableEq, Repr

/-- Why a command is not executed (R214); a refusal changes no state. -/
inductive Refusal where
  /-- An instruction without a meaning in this model: none. Safe. -/
  | notModelled (mnemonic : String)
  /-- Raised by `step`: the word decodes to no command (R102). Safe. -/
  | reservedEncoding
  /-- Raised by every command but INIT while CFG.EN = 0 (R121). Safe. -/
  | notInitialized
  /-- Raised by INIT while CFG.EN = 1 (R123). Safe. -/
  | alreadyInitialized
  /-- Raised by INIT with DUPLEX = 1, MSTR = 0 or CSMODE = 1 (R124). Safe. -/
  | reservedConfig
  /-- Raised by RDREG, WRREG, RDAXES and the wire frames unless CSN is 1 (R180). Safe. -/
  | frameOpen
  /-- Raised by an address above 127, and by RDAXES with a base above 122 (R69). Safe. -/
  | addressRange
  /-- Raised by `hostRead` of a register number from 6 to 15 (R28). Safe. -/
  | noSuchRegister
  /-- Raised by `exec` in a state with SEQ ≠ IDLE: a command presented while one runs has no move (R120); `step` never asks
  for it. Safe. -/
  | busy
  deriving DecidableEq, Repr

/-- The state after reset (R49, R240). The value 0 of a register that holds no value, and the fields of `env`, are the
model's choice (notes/assumptions/6.md, 2.md, 3.md, 8.md, 10.md, 18.md). -/
def State.reset : State where
  csn := .released
  sck := .released
  sdo := .released
  rxd := 0
  axis := ⟨0, 0, 0⟩
  txsr := 0
  rxsr := 0
  lob := 0
  cmdr := 0
  cfg := 0
  stat := 0
  seq := .idle
  ai := .x
  hl := false
  edge := 0
  trace := []
  held := ⟨false, ⟨false, false, false⟩, false, 0, false, false⟩
  shifting := false
  env := ⟨[], [], 0, none, []⟩
  hostData := none
  unwrittenReads := 0

end Sys2Proof.Machine
end

