-- ==== Sys2Proof/Machine/Operands.lean ====
section
/-! DEFINITION. Operand and field computations: the fields of CFG (10_state R29), header and data bytes (30_encoding R92, R93),
sample assembly (R95), axis addresses (42_register_client R193), bit positions (41_shifter_wire R154). -/

namespace Sys2Proof.Machine

/-! ### The configuration register -/

/-- CFG.CPHA, bit 0 (R29, R33). -/
def State.cpha (s : State) : Bool := s.cfg.getLsbD 0

/-- CFG.CPOL, bit 1: the idle level of SCK (R29, R32). -/
def State.cpol (s : State) : Bool := s.cfg.getLsbD 1

/-- CFG.LSBFIRST, bit 2 (R29, R34). -/
def State.lsbFirst (s : State) : Bool := s.cfg.getLsbD 2

/-- CFG.DUPLEX, bit 3 (R29, R31). -/
def State.duplex (s : State) : Bool := s.cfg.getLsbD 3

/-- CFG.MSTR, bit 4 (R29, R31). -/
def State.mstr (s : State) : Bool := s.cfg.getLsbD 4

/-- CFG.CSMODE, bit 5 (R29, R31). -/
def State.csMode (s : State) : Bool := s.cfg.getLsbD 5

/-- CFG.PRESC, bits 8:6 (R29, R30). -/
def State.presc (s : State) : BitVec 3 := s.cfg.extractLsb' 6 3

/-- CFG.EN, bit 15 (R29, R35). -/
def State.enabled (s : State) : Bool := s.cfg.getLsbD 15

/-- The bits of CFG that are fields; bits 14:9 read as 0 (R29). -/
def cfgFields : BitVec 16 := 0x81FF#16

/-- A legal CFGI: DUPLEX = 0, MSTR = 1, CSMODE = 0; every other field is free (R31, R124). -/
def legalConfig (cfg : BitVec 9) : Bool := !cfg.getLsbD 3 && cfg.getLsbD 4 && !cfg.getLsbD 5

/-- CFG.EN alone (R29). -/
def enableBit : BitVec 16 := 0x8000#16

/-- CFG after INIT: EN = 1, bits 14:9 are 0, CFG[8:0] is CFGI (R99, R122). -/
def configured (cfg : BitVec 9) : BitVec 16 := 1#1 ++ 0#6 ++ cfg

/-- The divisor of the input clock that PRESC selects (R30). No rule reads it. -/
def State.sckDivisor (s : State) : Nat := 2 ^ (s.presc.toNat + 1)

/-- The least number of input-clock periods of one transfer: eight periods of SCK (R266). No rule reads it. -/
def State.transferInputClocks (s : State) : Nat := 8 * s.sckDivisor

/-! ### Bytes and samples -/

/-- The header byte `rw ++ addr[6:0]` (R92). -/
def header (rw : Bool) (addr : Nat) : Byte := BitVec.ofBool rw ++ BitVec.ofNat 7 addr

/-- The data byte a read sends (R93). -/
def dummyByte : Byte := 0x00#8

/-- The byte of the data phase: the dummy byte of a read, the value of a write (R93, R182). -/
def dataByte (rw : Bool) (data : Byte) : Byte := if rw then dummyByte else data

/-- Sample assembly `high ++ low` (R95). -/
def sample (low high : Byte) : Sample := high ++ low

/-- The number a 16-bit pattern denotes in two's complement (R7). -/
def toInt16 (v : Sample) : Int := if v.getLsbD 15 then (v.toNat : Int) - 65536 else v.toNat

/-- A sensor address is in range (R69). -/
def addressInRange (a : Nat) : Bool := decide (a ≤ 127)

/-- The six addresses from a base are in range: `base + 5 ≤ 127`, unbounded (R69, R193). -/
def baseInRange (b : Nat) : Bool := decide (b + 5 ≤ 127)

/-- The number of an axis (R37). -/
def Axis.index : Axis → Nat
  | .x => 0
  | .y => 1
  | .z => 2

/-- The address of the byte RDAXES reads at (AI, HL): `base + 2*AI`, or one more for the high byte (R192, R193). -/
def axisAddress (base : Nat) (ai : Axis) (hl : Bool) : Nat := base + 2 * ai.index + hl.toNat

/-- The part of one axis (R24). -/
def PerAxis.get {α : Type} (p : PerAxis α) : Axis → α
  | .x => p.x
  | .y => p.y
  | .z => p.z

/-- The parts with one of them replaced (R24). -/
def PerAxis.set {α : Type} (p : PerAxis α) (a : Axis) (v : α) : PerAxis α :=
  match a with
  | .x => { p with x := v }
  | .y => { p with y := v }
  | .z => { p with z := v }

/-! ### Bits on the wire -/

/-- `pos(k)`: which bit of the byte travels in cell k (R154). -/
def bitPos (lsbFirst : Bool) (k : Nat) : Nat := if lsbFirst then k else 7 - k

/-- `pos(k)` under the configuration of the state (R154). -/
def State.pos (s : State) (k : Nat) : Nat := bitPos s.lsbFirst k

/-- The byte with bit `p` set to `b` (R156). -/
def setBit (v : Byte) (p : Nat) (b : Bool) : Byte :=
  if b then v ||| (1#8 <<< p) else v &&& ~~~(1#8 <<< p)

end Sys2Proof.Machine
end

