-- ==== Sys2Proof/Machine/Flags.lean ====
section
/-! DEFINITION. The one flag of SMRF: STAT.TC, transfer complete (10_state R39). -/

namespace Sys2Proof.Machine

/-- STAT.TC is bit 0 of STAT; bits 15:1 read as 0 (R39). -/
def tcMask : BitVec 16 := 0x0001#16

/-- STAT.TC (R39). -/
def State.tc (s : State) : Bool := s.stat.getLsbD 0

/-- `STAT.TC <- 0`, at the start of a transfer (R39, R160). -/
def State.clearTc (s : State) : State := { s with stat := s.stat &&& ~~~tcMask }

/-- `STAT.TC <- 1`, when the eighth bit is in and RXD is loaded (R39, R162). -/
def State.setTc (s : State) : State := { s with stat := s.stat ||| tcMask }

end Sys2Proof.Machine
end

