-- ==== Sys2Proof/Machine/Ops.lean ====
section
/-! DEFINITION. The operations every meaning is built from: pins and events (00_scope R8, R9), the oracle and the clock
(10_state R47), acceptance (40_bus_driver R120, R121; 42_register_client R180), the byte transfer edge by edge
(41_shifter_wire R160, R162), the transaction (42_register_client R182) and the axis reads (R192).

SMRF takes no exception and returns from none (60_exceptions R210, R217, R218), so there is no operation for either. -/

namespace Sys2Proof.Machine

/-- The outcome of a step of this machine. -/
abbrev Result := Host.Outcome State Fault Refusal

/-! ### Pins and events -/

/-- `drive(CSN, level)` (R8). -/
def State.driveCsn (s : State) (level : Bool) : State := { s with csn := .driven level }

/-- `drive(SCK, level)` (R8). -/
def State.driveSck (s : State) (level : Bool) : State := { s with sck := .driven level }

/-- `drive(SDO, level)` (R8). -/
def State.driveSdo (s : State) (level : Bool) : State := { s with sdo := .driven level }

/-- `emit(ev)`: the event goes to the end of TRACE (R9, R44). -/
def State.emit (s : State) (ev : BusEvent) : State := { s with trace := s.trace ++ [ev] }

/-- `SEQ <- next` (R8). -/
def State.goTo (s : State) (next : Seq) : State := { s with seq := next }

/-- `selected`: CSN is driven and its level is 0 (R43). -/
def State.selected (s : State) : Bool := decide (s.csn = .driven false)

/-- `busy`: SEQ is not IDLE (R42). -/
def State.busy (s : State) : Bool := decide (s.seq ≠ .idle)

/-! ### The environment -/

/-- The answer of the slave to `out` after the history `trace` (R66): the next byte it has already chosen, else the
oracle's. -/
def Env.reply (e : Env) (trace : List BusEvent) (out : Byte) : Byte :=
  match e.answers with
  | b :: _ => b
  | [] => Config.slave trace out e.draws

/-- The environment after one completed transfer: its answer is used up and the next choice is new (R66). -/
def Env.answered (e : Env) : Env := { e with answers := e.answers.tail, draws := e.draws + 1 }

/-- ClockRunning (R48). -/
def Env.clockRunning (e : Env) : Bool := decide (e.clock ≠ some 0)

/-- One edge of the clock is used. -/
def Env.tick (e : Env) : Env := { e with clock := e.clock.map (· - 1) }

/-- The byte the slave answers in the transfer that is running (R66, R158). -/
def State.incoming (s : State) : Byte := s.env.reply s.trace s.txsr

/-! ### Acceptance and retirement -/

/-- A command is accepted: its word is latched into CMDR (R27, R120), the sequencer goes to its first step (R36), and no
transfer of it has started. -/
def State.accept (s : State) (w : CommandWord) (first : Seq) : State :=
  { s with cmdr := w, held := { s.held with cmdr := true }, seq := first, shifting := false }

/-- A command retires (R120): SEQ is IDLE again. -/
def State.retire (s : State) : State := s.goTo .idle

/-- The checks of every command but INIT: not busy (R120), then EN = 1 (R121). -/
def whenEnabled (s : State) (k : State → State) : Result :=
  if s.busy then .refused .busy
  else if s.enabled then .next (k s)
  else .refused .notInitialized

/-- The checks of a framer command, in the order of R213: not busy, EN = 1, CSN = 1 (R180), the address in range (R69). -/
def whenFrameFree (s : State) (inRange : Bool) (k : State → State) : Result :=
  if s.busy then .refused .busy
  else if !s.enabled then .refused .notInitialized
  else if s.csn ≠ .driven true then .refused .frameOpen
  else if inRange then .next (k s)
  else .refused .addressRange

/-! ### The byte transfer, edge by edge -/

/-- `STAT.TC <- 0; TXSR <- out; EDGE <- 0` (R160). -/
def State.loadShifter (s : State) (out : Byte) : State :=
  { s.clearTc with txsr := out, held := { s.held with txsr := true }, edge := 0, shifting := true }

/-- `drive(SDO, TXSR[pos(k)])` (R160). -/
def State.shiftOut (s : State) (k : Nat) : State := s.driveSdo (s.txsr.getLsbD (s.pos k))

/-- The start step of a transfer of `out` (R160): it needs no clock. With CPHA = 0 the first bit is out before the first
edge. -/
def State.startTransfer (s : State) (out : Byte) : State :=
  if s.cpha then s.loadShifter out else (s.loadShifter out).shiftOut 0

/-- An edge step is enabled: a transfer is in progress, EDGE < 16, ClockRunning (R160), and EN = 1 (R35). -/
def State.edgeEnabled (s : State) : Bool :=
  s.shifting && s.enabled && s.env.clockRunning && decide (s.edge < 16)

/-- `RXSR[pos(k)] <- sample(SDI)`: the draw of cell k is bit `pos(k)` of the slave's byte (R156, R158). -/
def State.sampleSdi (s : State) (k : Nat) : State :=
  { s with
    rxsr := setBit s.rxsr (s.pos k) (s.incoming.getLsbD (s.pos k))
    held := { s.held with rxsr := setBit s.held.rxsr (s.pos k) true } }

/-- The leading edge of cell k: SCK leaves its idle level; sample, or change SDO, by CPHA (R160). -/
def State.leadingEdge (s : State) (k : Nat) : State :=
  if s.cpha then (s.driveSck (!s.cpol)).shiftOut k else (s.driveSck (!s.cpol)).sampleSdi k

/-- The trailing edge of cell k: SCK returns to its idle level; sample, or change SDO to the next cell's bit, by CPHA; after
the last cell SDO holds (R160). -/
def State.trailingEdge (s : State) (k : Nat) : State :=
  if s.cpha then (s.driveSck s.cpol).sampleSdi k
  else if k < 7 then (s.driveSck s.cpol).shiftOut (k + 1)
  else s.driveSck s.cpol

/-- What the next edge e = EDGE + 1 does at the pins: it belongs to cell (e - 1) div 2, and an odd e is a leading edge
(R160). -/
def State.edgePins (s : State) : State :=
  if s.edge % 2 = 0 then s.leadingEdge (s.edge / 2) else s.trailingEdge (s.edge / 2)

/-- `EDGE <- e`, and one edge of the clock is used. -/
def State.countEdge (s : State) : State := { s with edge := s.edge + 1, env := s.env.tick }

/-- One edge step (R160). A step that is not enabled changes nothing. -/
def State.edgeStep (s : State) : State := if s.edgeEnabled then s.edgePins.countEdge else s

/-- At most n edge steps, as far as the clock goes. -/
def State.edges (s : State) : Nat → State
  | 0 => s
  | n + 1 => s.edgeStep.edges n

/-- `RXD <- RXSR`; the transfer is no longer in progress and its answer is used up (R162). -/
def State.loadRxd (s : State) : State :=
  { s with rxd := s.rxsr, held := { s.held with rxd := true }, shifting := false, env := s.env.answered }

/-- The completion step, when EDGE = 16 (R162). -/
def State.complete (s : State) : State :=
  if s.shifting && decide (s.edge = 16) then (s.loadRxd.setTc).emit (.send s.txsr s.rxsr) else s

/-- A transfer of `out` is in progress: it has been started, now unless it already had (R216). -/
def State.started (s : State) (out : Byte) : State := if s.shifting then s else s.startTransfer out

/-- A transfer of `out` as far as the clock goes (R134, R160, R162). It is complete when `shifting` is false afterwards. -/
def State.transfer (s : State) (out : Byte) : State := ((s.started out).edges 16).complete

/-! ### The transaction sequencer -/

/-- The sequencer goes on to `next` once the transfer is complete; until then it stays (R182, R195). -/
def State.advance (s : State) (next : Seq) : State := if s.shifting then s else s.goTo next

/-- `SEQ = SELECT: drive(CSN, 0); emit(select); SEQ <- ADDR` (R182). -/
def State.selectPhase (s : State) : State :=
  if s.seq = .select then ((s.driveCsn false).emit .select).goTo .addr else s

/-- `SEQ = ADDR: Exchange(header); SEQ <- DATA` (R182). -/
def State.addrPhase (s : State) (hdr : Byte) : State :=
  if s.seq = .addr then (s.transfer hdr).advance .data else s

/-- `SEQ = DATA: Exchange(data byte); SEQ <- DESELECT` (R182). -/
def State.dataPhase (s : State) (out : Byte) : State :=
  if s.seq = .data then (s.transfer out).advance .deselect else s

/-- `SEQ = DESELECT: drive(CSN, 1); emit(deselect); SEQ <- next`; next is IDLE here, and `axisLatch` puts SELECT where a
further transaction follows (R182). -/
def State.deselectPhase (s : State) : State :=
  if s.seq = .deselect then ((s.driveCsn true).emit .deselect).goTo .idle else s

/-- The rest of a transaction from the step SEQ names, as far as the clock goes (R182, R195). -/
def State.transaction (s : State) (rw : Bool) (addr : Nat) (data : Byte) : State :=
  (((s.selectPhase).addrPhase (header rw addr)).dataPhase (dataByte rw data)).deselectPhase

/-- After a low byte: `LOB <- RXD; HL <- 1`, and the high byte's transaction follows (R192). -/
def State.keepLow (s : State) : State :=
  { s with lob := s.rxd, held := { s.held with lob := true }, hl := true, seq := .select }

/-- After a high byte: `AXIS[AI] <- RXD ++ LOB; HL <- 0` (R192, R194). -/
def State.assemble (s : State) : State :=
  { s with
    axis := s.axis.set s.ai (sample s.lob s.rxd)
    held := { s.held with axis := s.held.axis.set s.ai true }
    hl := false }

/-- `if AI < 2: AI <- AI + 1`, and the next axis's transaction follows; after the last axis the command has retired
(R192). -/
def State.nextAxis (s : State) : State :=
  match s.ai with
  | .x => { s with ai := .y, seq := .select }
  | .y => { s with ai := .z, seq := .select }
  | .z => s

/-- What RDAXES does after each of its transactions (R192). -/
def State.axisLatch (s : State) : State := if s.hl then s.assemble.nextAxis else s.keepLow

/-- The transaction of RDAXES at (AI, HL), as far as the clock goes (R192). -/
def State.axisTransaction (s : State) (base : Nat) : State :=
  s.transaction true (axisAddress base s.ai s.hl) dummyByte

/-- One register read of RDAXES: the latch follows once the transaction is complete (R192, R195). -/
def State.axisRead (s : State) (base : Nat) : State :=
  if (s.axisTransaction base).seq = .idle then (s.axisTransaction base).axisLatch else s.axisTransaction base

/-- At most n more register reads of RDAXES; none once the command has retired. -/
def State.axisReads (s : State) (base : Nat) : Nat → State
  | 0 => s
  | n + 1 => if s.seq = .idle then s else (s.axisRead base).axisReads base n

/-! ### The commands' bodies, from acceptance or from where they wait -/

/-- `XFER` from its transfer on (R130). -/
def State.runXfer (s : State) (data : Byte) : State := (s.transfer data).advance .idle

/-- `RDREG` and `WRREG` from the step SEQ names on (R184, R188). -/
def State.runRegister (s : State) (rw : Bool) (addr : Nat) (data : Byte) : State := s.transaction rw addr data

/-- `RDAXES` from the step SEQ, AI and HL name on (R192). -/
def State.runAxes (s : State) (base : Nat) : State := s.axisReads base 6

/-- The entry of RDAXES: `AI <- 0; HL <- 0` (R192). -/
def State.startAxes (s : State) : State := { s with ai := .x, hl := false }

/-- Micro-step n of INIT, counted from 1, in the order the spec keeps (R122, R125): the clock domains, which are no state;
CSN driven 1; SCK and SDO become outputs, at levels R125 and R164 leave open; CFG[8:0] is CFGI and SCK takes its idle level;
EN = 1. -/
def State.initStep (s : State) (cfg : BitVec 9) : Nat → State
  | 2 => s.driveCsn true
  | 3 => (s.driveSck (Config.sckInInit s.env.draws)).driveSdo (Config.sdoAfterInit s.env.draws)
  | 4 => { s.driveSck (cfg.getLsbD 1) with cfg := cfg.setWidth 16 }
  | 5 => { s with cfg := s.cfg ||| enableBit }
  | _ => s

/-- The state after the first n micro-steps of INIT (R125). -/
def State.initSteps (s : State) (cfg : BitVec 9) : Nat → State
  | 0 => s
  | n + 1 => (s.initSteps cfg n).initStep cfg (n + 1)

/-- The five micro-steps of INIT (R122). -/
def State.initialise (s : State) (cfg : BitVec 9) : State := s.initSteps cfg 5

/-! ### Waiting and going on -/

/-- The block waits in a transfer for a clock: no step of it is enabled (R134, R216). -/
def State.waiting (s : State) : Bool :=
  s.shifting && decide (s.edge < 16) && !(s.enabled && s.env.clockRunning)

/-- The bits of RXSR that have been sampled when EDGE = e (R156, R160): one flag a bit. -/
def sampledBits (cpha lsbFirst : Bool) (e : Nat) : Byte :=
  let cells := if cpha then e / 2 else (e + 1) / 2
  (List.range cells).foldl (fun v k => setBit v (bitPos lsbFirst k) true) 0#8

/-- Every register that the rest of the waiting command reads before it writes it holds a value (R22): CMDR, and in a
transfer TXSR and the bits of RXSR sampled so far, and LOB while a high byte is read. -/
def State.holdsWhatItReads (s : State) : Bool :=
  s.held.cmdr
    && (!s.shifting || (s.held.txsr
      && decide (s.held.rxsr &&& sampledBits s.cpha s.lsbFirst s.edge = sampledBits s.cpha s.lsbFirst s.edge)))
    && (!s.hl || s.held.lob)

/-- What the next read of a register that holds no value gives: a free value (R215). -/
def State.drawUnwritten (s : State) (r : DataRegister) : BitVec 32 := Config.unwritten r s.unwrittenReads

/-- The fault UnwrittenRead is recorded (R215). -/
def State.recordUnwritten (s : State) : State := { s with unwrittenReads := s.unwrittenReads + 1 }

/-- The registers a waiting command may read, each one that holds no value at a free value (R215). -/
def State.fillUnwritten (s : State) : State :=
  { s with
    cmdr := if s.held.cmdr then s.cmdr else s.drawUnwritten .cmdr
    txsr := if s.held.txsr then s.txsr else (s.drawUnwritten .txsr).setWidth 8
    rxsr := (s.rxsr &&& s.held.rxsr) ||| ((s.drawUnwritten .rxsr).setWidth 8 &&& ~~~s.held.rxsr)
    lob := if s.held.lob then s.lob else (s.drawUnwritten .lob).setWidth 8 }

/-- The state a waiting command goes on from: as it is, if every register it will read holds a value; otherwise the fault
UnwrittenRead is recorded and those that hold none are at free values (R215; no run comes here, notes/assumptions/14.md). -/
def State.readable (s : State) : State := if s.holdsWhatItReads then s else s.fillUnwritten.recordUnwritten

/-- The command in CMDR goes on from where it waits (R216); its operands are the fields of CMDR (R27). -/
def State.continueCommand (s : State) : Result :=
  match decodeCommand s.readable.cmdr with
  | .ok (.xfer d) => .next (s.readable.runXfer d)
  | .ok (.rdreg a) => .next (s.readable.runRegister true a dummyByte)
  | .ok (.wrreg a d) => .next (s.readable.runRegister false a d)
  | .ok (.rdaxes b) => .next (s.readable.runAxes b)
  | _ => .fault .lostSequencer

/-- A step while SEQ is not IDLE: the waiting command goes on; while there is no clock only the environment can move, and
when it has nothing left to do the machine is stuck (R216). -/
def State.resume (s : State) : Result :=
  if s.waiting then
    match s.env.clockLater with
    | [] => .fault .stuck
    | c :: later => .next { s with env := { s.env with clock := c, clockLater := later } }
  else s.continueCommand

end Sys2Proof.Machine
end

