-- ==== Sys2Proof/Machine/BusDriver.lean ====
section
/-! DEFINITION. The Bus Driver family: INIT, SELECT, DESELECT, XFER (40_bus_driver R120 to R137). -/

namespace Sys2Proof.Machine

/-- INIT (R122), refused while EN = 1 (R123) and for a reserved configuration (R124). -/
def execInit (cfg : BitVec 9) (s : State) : Host.Outcome State Fault Refusal :=
  if s.busy then .refused .busy
  else if s.enabled then .refused .alreadyInitialized
  else if legalConfig cfg then .next ((s.accept (commandWord (.init cfg)) .data).initialise cfg).retire
  else .refused .reservedConfig

/-- SELECT (R126), also when CSN is already 0 (R127). -/
def execSelect (s : State) : Host.Outcome State Fault Refusal :=
  whenEnabled s fun s => (((s.accept (commandWord .select) .select).driveCsn false).emit .select).retire

/-- DESELECT (R128), also when CSN is already 1 (R129). -/
def execDeselect (s : State) : Host.Outcome State Fault Refusal :=
  whenEnabled s fun s => (((s.accept (commandWord .deselect) .deselect).driveCsn true).emit .deselect).retire

/-- XFER (R130), whatever CSN is (R131). While its transfer runs SEQ is DATA (notes/assumptions/7.md); it retires when the
transfer is complete and otherwise stays (R134). -/
def execXfer (data : Byte) (s : State) : Host.Outcome State Fault Refusal :=
  whenEnabled s fun s => (s.accept (commandWord (.xfer data)) .data).runXfer data

end Sys2Proof.Machine
end

