-- ==== Sys2Proof/Machine/RegisterClient.lean ====
section
/-! DEFINITION. The Register Client family: RDREG, WRREG, RDAXES (42_register_client R180 to R206). -/

namespace Sys2Proof.Machine

/-- RDREG (R184, R186). -/
def execRdreg (addr : Nat) (s : State) : Host.Outcome State Fault Refusal :=
  whenFrameFree s (addressInRange addr) fun s =>
    (s.accept (commandWord (.rdreg addr)) .select).runRegister true addr dummyByte

/-- WRREG (R188, R190). -/
def execWrreg (addr : Nat) (data : Byte) (s : State) : Host.Outcome State Fault Refusal :=
  whenFrameFree s (addressInRange addr) fun s =>
    (s.accept (commandWord (.wrreg addr data)) .select).runRegister false addr data

/-- RDAXES (R192 to R194). -/
def execRdaxes (base : Nat) (s : State) : Host.Outcome State Fault Refusal :=
  whenFrameFree s (baseInRange base) fun s =>
    ((s.accept (commandWord (.rdaxes base)) .select).startAxes).runAxes base

end Sys2Proof.Machine
end

