-- ==== Sys2Proof/Machine/WireFrame.lean ====
section
/-! DEFINITION. The wire frames RDFRAME and WRFRAME (30_encoding R91): the transaction of 42_register_client R182 that puts the
frame on the bus, run under the command that produces it (notes/assumptions/9.md). -/

namespace Sys2Proof.Machine

/-- RDFRAME: the read transaction of the frame (R91, R182), as the command that produces it runs it (R184). -/
def execRdframe (addr : Nat) (s : State) : Host.Outcome State Fault Refusal :=
  whenFrameFree s (addressInRange addr) fun s =>
    (s.accept (commandWord (.rdframe addr)) .select).runRegister true addr dummyByte

/-- WRFRAME: the write transaction of the frame (R91, R182), as the command that produces it runs it (R188). -/
def execWrframe (addr : Nat) (data : Byte) (s : State) : Host.Outcome State Fault Refusal :=
  whenFrameFree s (addressInRange addr) fun s =>
    (s.accept (commandWord (.wrframe addr data)) .select).runRegister false addr data

end Sys2Proof.Machine
end

