-- ==== Sys2Proof/Machine/Dispatch.lean ====
section
/-! DEFINITION. One arm per instruction: the whole command, from acceptance to retirement (00_scope R12), or to the transfer
that finds no clock (42_register_client R195). -/

namespace Sys2Proof.Machine

def exec (i : Instr) (s : State) : Host.Outcome State Fault Refusal :=
  match i with
  | .init cfg => Sys2Proof.Machine.execInit cfg s
  | .select => Sys2Proof.Machine.execSelect s
  | .deselect => Sys2Proof.Machine.execDeselect s
  | .xfer data => Sys2Proof.Machine.execXfer data s
  | .rdreg addr => Sys2Proof.Machine.execRdreg addr s
  | .wrreg addr data => Sys2Proof.Machine.execWrreg addr data s
  | .rdaxes base => Sys2Proof.Machine.execRdaxes base s
  | .rdframe addr => Sys2Proof.Machine.execRdframe addr s
  | .wrframe addr data => Sys2Proof.Machine.execWrframe addr data s

end Sys2Proof.Machine
end

