-- ==== Sys2Proof/Machine/HostPort.lean ====
section
/-! DEFINITION. The host's read port HostRead(n) (10_state R28, 60_exceptions R214, R215) and how the host's requests are taken
from `env.program`. -/

namespace Sys2Proof.Machine

/-- What a register of the read port holds: a value, no value (R22), or there is no such register (R28). -/
inductive PortValue where
  | value (v : BitVec 16)
  | noValue
  | noRegister
  deriving DecidableEq, Repr

/-- A register that holds `v` if `present`, and otherwise no value (R22). -/
def portValue (present : Bool) (v : BitVec 16) : PortValue := if present then .value v else .noValue

/-- The registers of the read port by their numbers (R28). Reserved bits read as 0 (R29, R39); RXD is zero-extended. -/
def State.portRegister (s : State) (n : Fin 16) : PortValue :=
  match n.val with
  | 0 => portValue s.enabled (s.cfg &&& cfgFields)
  | 1 => .value (s.stat &&& tcMask)
  | 2 => portValue s.held.rxd (s.rxd.setWidth 16)
  | 3 => portValue s.held.axis.x s.axis.x
  | 4 => portValue s.held.axis.y s.axis.y
  | 5 => portValue s.held.axis.z s.axis.z
  | _ => .noRegister

/-- What a register of the read port shows while it holds no value: a free value in its own bits; CFG's EN and reserved bits
are 0 then (R49, R215). -/
def State.unwrittenPortValue (s : State) (n : Fin 16) : BitVec 16 :=
  match n.val with
  | 0 => (s.drawUnwritten .cfg).setWidth 16 &&& 0x01FF#16
  | 2 => (s.drawUnwritten .rxd).setWidth 16 &&& 0x00FF#16
  | 3 => (s.drawUnwritten .axisX).setWidth 16
  | 4 => (s.drawUnwritten .axisY).setWidth 16
  | _ => (s.drawUnwritten .axisZ).setWidth 16

/-- `HostRead(n)`: the value goes to the host; no register or flag changes (R28). A register that holds no value shows some
value, as the hardware does, and the fault UnwrittenRead is recorded (R215; notes/assumptions/6.md). -/
def hostRead (n : Fin 16) (s : State) : Host.Outcome State Fault Refusal :=
  match s.portRegister n with
  | .value v => .next { s with hostData := some v }
  | .noValue => .next { s.recordUnwritten with hostData := some (s.unwrittenPortValue n) }
  | .noRegister => .refused .noSuchRegister

/-- The state once the host has made its first request: `rest` are the requests still to come. -/
def State.withProgram (s : State) (rest : List HostRequest) : State := { s with env := { s.env with program := rest } }

/-- The state in which the host's next request is `r`, and the block is free to take it. -/
def State.withRequest (s : State) (r : HostRequest) : State :=
  { s.withProgram (r :: s.env.program) with seq := .idle, shifting := false }

end Sys2Proof.Machine
end

