-- ==== Sys2Proof/Machine/Step.lean ====
section
/-! DEFINITION. One step of the machine: while SEQ is IDLE the host's next request (60_exceptions R226), else the running
command goes on (R216). -/

namespace Sys2Proof.Machine

/-- One step. A word that decodes to no command is refused (R102); with no request left nothing changes (R226, R262). -/
def step (s : State) : Host.Outcome State Fault Refusal :=
  if s.busy then s.resume
  else
    match s.env.program with
    | [] => .next s
    | .pause :: rest => .next (s.withProgram rest)
    | .read n :: rest => hostRead n (s.withProgram rest)
    | .present c :: rest =>
      match decode c with
      | .ok i => exec i (s.withProgram rest)
      | .error _ => .refused .reservedEncoding

/-- The state in which the host's next request is the instruction of a table row's bits. -/
def State.withFetchWord (s : State) (nbits w : Nat) : State :=
  match tableWord nbits w with
  | some c => s.withRequest (.present c)
  | none => s

end Sys2Proof.Machine
end

