-- ==== Sys2Proof/Machine/Assembler.lean ====
section
/-! DEFINITION. Assembler text (30_encoding R104) and the expansions of the framer commands (R105). -/

namespace Sys2Proof.Machine

/-- The value of a digit in a base of at most 16. -/
def digitValue (base : Nat) (c : Char) : Option Nat :=
  let v :=
    if '0' ≤ c ∧ c ≤ '9' then c.toNat - 48
    else if 'a' ≤ c ∧ c ≤ 'f' then c.toNat - 87
    else if 'A' ≤ c ∧ c ≤ 'F' then c.toNat - 55
    else 16
  if v < base then some v else none

/-- The number a list of digits writes, after `acc`. -/
def digitsValue (base : Nat) (acc : Nat) : List Char → Option Nat
  | [] => some acc
  | c :: cs => (digitValue base c).bind fun v => digitsValue base (acc * base + v) cs

/-- A number, decimal or `0x` hexadecimal (R104). -/
def numberOf : List Char → Option Nat
  | [] => none
  | '0' :: 'x' :: c :: cs => digitsValue 16 0 (c :: cs)
  | cs => digitsValue 10 0 cs

/-- White space inside a line. -/
def isBlank (c : Char) : Bool := c = ' ' || c = '\t' || c = '\r'

/-- A text without its leading and trailing blanks. -/
def trimBlanks (cs : List Char) : List Char :=
  ((cs.dropWhile isBlank).reverse.dropWhile isBlank).reverse

/-- A text cut at every `sep`. -/
def cutAt (sep : Char) : List Char → List (List Char)
  | [] => [[]]
  | c :: cs =>
    if c = sep then [] :: cutAt sep cs
    else
      match cutAt sep cs with
      | [] => [[c]]
      | piece :: rest => (c :: piece) :: rest

/-- The operands of a line: nothing, or pieces between commas (R104). -/
def operandTexts (cs : List Char) : List (List Char) :=
  match trimBlanks cs with
  | [] => []
  | t => (cutAt ',' t).map trimBlanks

/-- The place and width in CFGI of a field by its name (R99). -/
def configFieldPlace : List Char → Option (Nat × Nat)
  | ['C', 'P', 'H', 'A'] => some (0, 1)
  | ['C', 'P', 'O', 'L'] => some (1, 1)
  | ['L', 'S', 'B', 'F', 'I', 'R', 'S', 'T'] => some (2, 1)
  | ['D', 'U', 'P', 'L', 'E', 'X'] => some (3, 1)
  | ['M', 'S', 'T', 'R'] => some (4, 1)
  | ['C', 'S', 'M', 'O', 'D', 'E'] => some (5, 1)
  | ['P', 'R', 'E', 'S', 'C'] => some (6, 3)
  | _ => none

/-- CFGI with the field of the given place and width replaced by `v`. -/
def withConfigField (cfg : BitVec 9) (lo width v : Nat) : BitVec 9 :=
  (cfg &&& ~~~(BitVec.ofNat 9 (2 ^ width - 1) <<< lo)) ||| (BitVec.ofNat 9 v <<< lo)

/-- What omitted fields take (R104): MSTR = 1 and every other field 0. -/
def defaultConfig : BitVec 9 := 0x010#9

/-- CFGI with one `field=value` pair applied (R104). -/
def applyConfigPair (cfg : BitVec 9) (text : List Char) : Option (BitVec 9) :=
  match (cutAt '=' text).map trimBlanks with
  | [name, value] =>
    match configFieldPlace name, numberOf value with
    | some (lo, width), some v => if v < 2 ^ width then some (withConfigField cfg lo width v) else none
    | _, _ => none
  | _ => none

/-- CFGI from the pairs of a list, in their order (R104). -/
def configPairs (cfg : BitVec 9) : List (List Char) → Option (BitVec 9)
  | [] => some cfg
  | t :: ts => (applyConfigPair cfg t).bind fun c => configPairs c ts

/-- CFGI from INIT's operands: one number, or `field=value` pairs (R104). -/
def configOperand (ts : List (List Char)) : Option (BitVec 9) :=
  match ts with
  | [] => none
  | [t] =>
    match numberOf t with
    | some v => if v < 512 then some (BitVec.ofNat 9 v) else none
    | none => configPairs defaultConfig [t]
  | ts => configPairs defaultConfig ts

/-- A byte operand. -/
def byteOperand (t : List Char) : Option Byte :=
  (numberOf t).bind fun v => if v < 256 then some (BitVec.ofNat 8 v) else none

/-- A command from its mnemonic, in capitals, and its operands (R104). -/
def commandFromText (mnemonic : List Char) (ops : List (List Char)) : Option Instr :=
  match mnemonic, ops with
  | ['I', 'N', 'I', 'T'], ts => (configOperand ts).map .init
  | ['S', 'E', 'L', 'E', 'C', 'T'], [] => some .select
  | ['D', 'E', 'S', 'E', 'L', 'E', 'C', 'T'], [] => some .deselect
  | ['X', 'F', 'E', 'R'], [d] => (byteOperand d).map .xfer
  | ['R', 'D', 'R', 'E', 'G'], [a] => (numberOf a).map .rdreg
  | ['W', 'R', 'R', 'E', 'G'], [a, d] => (numberOf a).bind fun n => (byteOperand d).map (.wrreg n)
  | ['R', 'D', 'A', 'X', 'E', 'S'], [b] => (numberOf b).map .rdaxes
  | _, _ => none

/-- The command of one line (R104): what follows `;` is a comment. -/
def assembleLine (line : List Char) : Option Instr :=
  let code := trimBlanks (line.takeWhile (· ≠ ';'))
  commandFromText (code.takeWhile fun c => !isBlank c) (operandTexts (code.dropWhile fun c => !isBlank c))

/-- The Bus Driver commands a register command stands for (R105), and the register reads RDAXES stands for; the three
writes of AXIS no other command makes. Any other instruction stands for itself. -/
def expansion : Instr → List Instr
  | .rdreg a => [.select, .xfer (BitVec.ofBool true ++ addressBits a), .xfer 0x00#8, .deselect]
  | .wrreg a d => [.select, .xfer (BitVec.ofBool false ++ addressBits a), .xfer d, .deselect]
  | .rdaxes b => [.rdreg b, .rdreg (b + 1), .rdreg (b + 2), .rdreg (b + 3), .rdreg (b + 4), .rdreg (b + 5)]
  | i => [i]

end Sys2Proof.Machine
end

