-- ==== Sys2Proof/Machine/Reference.lean ====
section
/-! DEFINITION. The transfer granularity, the spec's reference (00_scope R12): one step per select, byte exchange and deselect
(40_bus_driver R132, 42_register_client R182). `exec` runs at serial-clock edges; statements compare the two (R166). -/

namespace Sys2Proof.Machine

/-- The registers of `Exchange(out)` with answer `received`, TC aside (R132). -/
def State.loadExchange (s : State) (out received : Byte) : State :=
  { s with
    txsr := out, rxsr := received, rxd := received, env := s.env.answered
    held := { s.held with txsr := true, rxsr := 0xFF#8, rxd := true } }

/-- `Exchange(out)` as one step (R132); its enabling condition ClockRunning stands in `sequencerStep`. -/
def State.exchange (s : State) (out : Byte) : State :=
  ((s.clearTc.loadExchange out (s.env.reply s.trace out)).setTc).emit (.send out (s.env.reply s.trace out))

/-- One step of a transaction at transfer granularity (R182), `next` following DESELECT; `none` where no step is enabled. -/
def State.sequencerStep (s : State) (rw : Bool) (addr : Nat) (data : Byte) (next : Seq) : Option State :=
  match s.seq with
  | .idle => none
  | .select => some (((s.driveCsn false).emit .select).goTo .addr)
  | .addr => if s.env.clockRunning then some ((s.exchange (header rw addr)).goTo .data) else none
  | .data => if s.env.clockRunning then some ((s.exchange (dataByte rw data)).goTo .deselect) else none
  | .deselect => some (((s.driveCsn true).emit .deselect).goTo next)

/-- At most n steps of a transaction at transfer granularity, as far as they are enabled. -/
def State.sequencerSteps (s : State) (rw : Bool) (addr : Nat) (data : Byte) (next : Seq) : Nat → State
  | 0 => s
  | n + 1 =>
    match s.sequencerStep rw addr data next with
    | some s1 => s1.sequencerSteps rw addr data next n
    | none => s

/-- The six transactions of RDAXES at transfer granularity (R192), n of them left: four sequencer steps each, then the
latch. -/
def State.axisSequence (s : State) (base : Nat) : Nat → State
  | 0 => s
  | n + 1 =>
    ((s.sequencerSteps true (axisAddress base s.ai s.hl) dummyByte .idle 4).axisLatch).axisSequence base n

/-- What the transfer granularity shows of a state (R12, R166): all but the levels of SCK and SDO, the edge counter and the
clock. -/
def State.transferView (s : State) : State :=
  { s with sck := .released, sdo := .released, edge := 0, env := { s.env with clock := none } }

end Sys2Proof.Machine
end

