-- ==== Sys2Proof/Machine/Slave.lean ====
section
/-! DEFINITION. The ideal register-file slave (20_memory R67) and how a slave decodes a frame (30_encoding R94). It is the
environment's, not a part of SMRF: a claim may take it as a premise about a trace. -/

namespace Sys2Proof.Machine

/-- Where the slave stands in the frame it is receiving (R67). -/
inductive FramePlace where
  /-- No frame is open. -/
  | outside
  /-- After `select`: the next byte is the header. -/
  | opened
  /-- After the header: the next byte is the data byte. -/
  | headed (hdr : Byte)
  /-- After the data byte: a further byte has no meaning. -/
  | served
  deriving DecidableEq, Repr

/-- The ideal slave: its 128 registers and its place in a frame (R67). -/
structure IdealSlave where
  sreg : Vector Byte 128
  place : FramePlace
  deriving DecidableEq, Repr

/-- The read flag of a header byte (R94): 1 is a read. -/
def headerRead (hdr : Byte) : Bool := hdr.getLsbD 7

/-- The address of a header byte (R94). -/
def headerAddr (hdr : Byte) : Fin 128 := (hdr.extractLsb' 0 7).toFin

/-- The slave's answer to a byte; `none` is a draw (R67). -/
def IdealSlave.answer (sl : IdealSlave) : Option Byte :=
  match sl.place with
  | .headed hdr => if headerRead hdr then some (sl.sreg.get (headerAddr hdr)) else none
  | _ => none

/-- The slave after a data byte: a write stores it (R67). -/
def IdealSlave.serve (sl : IdealSlave) (hdr out : Byte) : IdealSlave :=
  if headerRead hdr then { sl with place := .served }
  else { sreg := sl.sreg.set (headerAddr hdr) out (headerAddr hdr).isLt, place := .served }

/-- The slave after a bus event (R67). -/
def IdealSlave.observe (sl : IdealSlave) : BusEvent → IdealSlave
  | .select => { sl with place := .opened }
  | .deselect => { sl with place := .outside }
  | .send out _ =>
    match sl.place with
    | .opened => { sl with place := .headed out }
    | .headed hdr => sl.serve hdr out
    | _ => sl

/-- The byte received in an event is one the slave could have answered (R67). -/
def IdealSlave.allows (sl : IdealSlave) : BusEvent → Bool
  | .send _ received =>
    match sl.answer with
    | some b => decide (received = b)
    | none => true
  | _ => true

/-! ### A sensor that changes its registers -/

/-- What moves the ideal slave (R67): a bus event, or the environment, which may change SREG between any two events. -/
inductive SlaveMove where
  | bus (ev : BusEvent)
  | sensor (regs : Vector Byte 128)
  deriving DecidableEq, Repr

/-- The slave after a move (R67). -/
def IdealSlave.move (sl : IdealSlave) : SlaveMove → IdealSlave
  | .bus ev => sl.observe ev
  | .sensor regs => { sl with sreg := regs }

/-- The slave after some moves (R67). -/
def IdealSlave.afterMoves (sl : IdealSlave) (moves : List SlaveMove) : IdealSlave := moves.foldl IdealSlave.move sl

/-- The bus events among some moves, in their order. -/
def busEvents : List SlaveMove → List BusEvent
  | [] => []
  | .bus ev :: rest => ev :: busEvents rest
  | .sensor _ :: rest => busEvents rest

/-- Every byte received in some moves is one the slave could have answered at that point (R67). -/
def IdealSlave.explainsMoves (sl : IdealSlave) : List SlaveMove → Bool
  | [] => true
  | .bus ev :: rest => sl.allows ev && (sl.observe ev).explainsMoves rest
  | .sensor regs :: rest => (sl.move (.sensor regs)).explainsMoves rest

/-- The slave could have answered a trace, whatever the environment did to its registers in between (R67). -/
def IdealSlave.couldAnswer (sl : IdealSlave) (trace : List BusEvent) : Prop :=
  ∃ moves, busEvents moves = trace ∧ sl.explainsMoves moves = true

/-! ### The premise that the environment holds the registers still -/

/-- The slave after a trace, its registers held still by the environment (R67). -/
def IdealSlave.after (sl : IdealSlave) (trace : List BusEvent) : IdealSlave := sl.afterMoves (trace.map .bus)

/-- Every byte received in a trace is one the slave could have answered at that point, its registers held still by the
environment (R67): a premise a claim states. -/
def IdealSlave.explains (sl : IdealSlave) (trace : List BusEvent) : Bool := sl.explainsMoves (trace.map .bus)

end Sys2Proof.Machine
end

