-- ==== Sys2Proof/Safety.lean ====
section
/-! DEFINITION. The terms of claims: framed traces (10_state R45, R46), clock premises (R48), the end of a run (60_exceptions R227),
hand-written command sequences (30_encoding R105), and the invariant of the machine. -/

namespace Sys2Proof.Machine

/-! ### Traces -/

/-- The scan of a trace for frames, each of whose numbers of bytes `ok` admits; `none`: no frame is open, `some n`: one is,
with n bytes so far (R46). -/
def framesOk (ok : Nat → Bool) : Option Nat → List BusEvent → Bool
  | none, [] => true
  | some _, [] => false
  | none, .select :: t => framesOk ok (some 0) t
  | some n, .send _ _ :: t => framesOk ok (some (n + 1)) t
  | some n, .deselect :: t => ok n && framesOk ok none t
  | none, .send _ _ :: _ => false
  | none, .deselect :: _ => false
  | some _, .select :: _ => false

/-- Well framed: frames of at least one byte, nothing between them (R46). -/
def wellFramed (t : List BusEvent) : Bool := framesOk (fun n => decide (1 ≤ n)) none t

/-- Register framed: every frame has exactly two bytes (R46). -/
def registerFramed (t : List BusEvent) : Bool := framesOk (fun n => decide (n = 2)) none t

/-- An event in the source's form: a `send` without the received byte (R45). -/
inductive SourceEvent where
  | select
  | send (out : Byte)
  | deselect
  deriving DecidableEq, Repr

/-- The source's form of an event (R45). -/
def sourceEvent : BusEvent → SourceEvent
  | .select => .select
  | .send out _ => .send out
  | .deselect => .deselect

/-- The source's form of a trace (R45). -/
def sourceTrace (t : List BusEvent) : List SourceEvent := t.map sourceEvent

/-- The events of one transaction with header `hdr`, data byte `out` and answers `i0`, `i1` (R182, R184, R188). -/
def frameEvents (hdr i0 out i1 : Byte) : List BusEvent := [.select, .send hdr i0, .send out i1, .deselect]

/-- The six read frames of RDAXES: address phases answered by `j`, data phases by `b` (R192). -/
def axisFrames (base : Nat) (j b : Nat → Byte) : List BusEvent :=
  (List.range 6).flatMap fun c => frameEvents (0x80#8 ||| BitVec.ofNat 8 (base + c)) (j c) 0x00#8 (b c)

/-- The level of CSN after the events, by the last `select` or `deselect` among them (R43). -/
def chipSelectAfter (before : Pin) : List BusEvent → Pin
  | [] => before
  | .select :: rest => chipSelectAfter (.driven false) rest
  | .deselect :: rest => chipSelectAfter (.driven true) rest
  | .send _ _ :: rest => chipSelectAfter before rest

/-! ### Premises -/

/-- The clock gives at least n more edges: ClockRunning as far as a command needs it (R48). -/
def Env.clockCovers (e : Env) (n : Nat) : Bool :=
  match e.clock with
  | none => true
  | some m => decide (n ≤ m)

/-- The serial-clock edges a command needs: sixteen a transfer, two transfers a register transaction, twelve transfers in
RDAXES (R160, R182, R192, R266). -/
def edgesNeeded : Instr → Nat
  | .xfer _ => 16
  | .rdreg _ => 32
  | .wrreg _ _ => 32
  | .rdaxes _ => 192
  | .rdframe _ => 32
  | .wrframe _ _ => 32
  | _ => 0

/-- A command of the Register Client, with operands in range (R2, R69). -/
def isFramerCommand : Instr → Bool
  | .rdreg a => addressInRange a
  | .wrreg a _ => addressInRange a
  | .rdaxes b => baseInRange b
  | _ => false

/-- An instruction that runs a register transaction: a command of the Register Client, or a wire frame. -/
def runsTransaction : Instr → Bool
  | .rdreg _ => true
  | .wrreg _ _ => true
  | .rdaxes _ => true
  | .rdframe _ => true
  | .wrframe _ _ => true
  | _ => false

/-- The bits of a command word that must be 0, by its opcode; `none` for a reserved opcode (R97, R100). -/
def mustBeZeroBits : Nat → Option CommandWord
  | 1 => some 0x0FFFFE00#32
  | 2 => some 0x0FFFFFFF#32
  | 3 => some 0x0FFFFFFF#32
  | 4 => some 0x0FFFFF00#32
  | 5 => some 0x0FFF80FF#32
  | 6 => some 0x0FFF8000#32
  | 7 => some 0x0FFF80FF#32
  | _ => none

/-- A reserved command word (R102): a reserved opcode, or a 1 in a bit that must be 0. -/
def reservedWord (w : CommandWord) : Bool :=
  match mustBeZeroBits (w.extractLsb' 28 4).toNat with
  | some m => decide (w &&& m ≠ 0#32)
  | none => true

/-- The state in which a framer command is accepted (R180, R196). -/
def State.ready (s : State) : Bool :=
  decide (s.seq = .idle) && s.enabled && decide (s.csn = .driven true)

/-- Every byte received in `events`, which follow the history `before`, is the answer the environment `e` gives there
(R66). -/
def Env.answersIn (e : Env) (before : List BusEvent) : List BusEvent → Bool
  | [] => true
  | .send out received :: rest =>
    decide (received = e.reply before out) && e.answered.answersIn (before ++ [.send out received]) rest
  | ev :: rest => e.answersIn (before ++ [ev]) rest

/-- The environment after n completed transfers. -/
def Env.answeredTimes (e : Env) : Nat → Env
  | 0 => e
  | n + 1 => e.answered.answeredTimes n

/-- The environment after n edges of its clock. -/
def Env.clockUsed (e : Env) (n : Nat) : Env := { e with clock := e.clock.map (· - n) }

/-- The state with another clock: what it gives before it stops, and its later runs. -/
def State.withClock (s : State) (c : Option Nat) (later : List (Option Nat)) : State :=
  { s with env := { s.env with clock := c, clockLater := later } }

/-! ### Runs -/

/-- Instructions in a row, each one executed in the state the one before it left. -/
def execAll : List Instr → State → Result
  | [], s => .next s
  | i :: is, s =>
    match exec i s with
    | .next t => execAll is t
    | .fault f => .fault f
    | .refused r => .refused r

/-- A run has ended: the host has no request left and no command runs (R227). -/
def State.runEnded (s : State) : Bool := s.env.program.isEmpty && decide (s.seq = .idle)

/-- A run has ended well, as far as its state tells: no fault was recorded. A refusal, or the fault that is a hang, is the
outcome of the step itself (R214, R215, R227). -/
def State.endedWell (s : State) : Bool := s.runEnded && decide (s.unwrittenReads = 0)

/-- Whether two outcomes are of one kind, and for two refusals or two faults for the same reason. -/
def sameKind : Result → Result → Bool
  | .next _, .next _ => true
  | .fault f, .fault g => decide (f = g)
  | .refused p, .refused q => decide (p = q)
  | _, _ => false

/-! ### The invariant -/

/-- The command in CMDR is one that waits in a transfer, and SEQ and CSN are where it leaves them: CSN = 0 for the framer
commands (R182, R195); SEQ = DATA for XFER, the model's reading of R36 (DEDUCED, unsafe; notes/assumptions/7.md). -/
def State.waitsInCommand (s : State) : Prop :=
  match decodeCommand s.cmdr with
  | .ok (.xfer _) => s.seq = .data ∧ s.hl = false
  | .ok (.rdreg _) => s.csn = .driven false ∧ s.hl = false
  | .ok (.wrreg _ _) => s.csn = .driven false ∧ s.hl = false
  | .ok (.rdaxes b) => s.csn = .driven false ∧ baseInRange b = true
  | _ => False

/-- What holds after reset and after every step. Three parts rest on the model's own reading: `waitsInCommand`
(notes/assumptions/7.md), `shifting` (8.md) and `holdsWhatItReads` (14.md). -/
structure Inv (s : State) : Prop where
  /-- CFG[14:9] is 0 (R29). -/
  cfgReserved : s.cfg &&& ~~~cfgFields = 0#16
  /-- STAT[15:1] is 0 (R39). -/
  statReserved : s.stat &&& ~~~tcMask = 0#16
  /-- Once enabled, the configuration is a legal one (R31). -/
  legal : s.enabled = true → legalConfig (s.cfg.extractLsb' 0 9) = true
  /-- While EN = 0 nothing runs, no pin is driven, nothing has happened on the bus (R35, R49). -/
  offline : s.enabled = false →
    s.seq = .idle ∧ s.csn = .released ∧ s.sck = .released ∧ s.sdo = .released ∧ s.trace = [] ∧ s.tc = false
  /-- Once enabled, CSN and SDO are driven (R122). -/
  online : s.enabled = true → s.csn ≠ .released ∧ s.sdo ≠ .released
  /-- Outside a transfer SCK is at its idle level (R152). -/
  sckIdle : s.enabled = true → s.shifting = false → s.sck = .driven s.cpol
  /-- In a transfer SCK is away from its idle level after an odd edge and at it after an even one (R152). -/
  sckShifting : s.enabled = true → s.shifting = true → s.sck = .driven (s.cpol != decide (s.edge % 2 = 1))
  /-- EDGE is 0 to 16 (R38). -/
  edgeBound : s.edge ≤ 16
  /-- At rest no transfer is in progress and HL is 0 (R37, R152). -/
  atRest : s.seq = .idle → s.shifting = false ∧ s.hl = false
  /-- A command that has not retired waits in a transfer whose edges are not all done, with TC = 0 (R134, R195), and the
  registers it will read hold values (notes/assumptions/14.md). -/
  atWork : s.seq ≠ .idle →
    (s.seq = .addr ∨ s.seq = .data) ∧ s.shifting = true ∧ s.edge < 16 ∧ s.tc = false ∧ s.holdsWhatItReads = true
      ∧ s.waitsInCommand
  /-- TC = 1 says that RXD holds the byte of the last transfer (R162). -/
  tcHolds : s.tc = true → s.held.rxd = true ∧ s.held.rxsr = 0xFF#8 ∧ s.rxd = s.rxsr

end Sys2Proof.Machine
end

