-- ==== Sys2Proof/Certificates/Slice0/Obligations.lean ====
section
/-! DEFINITION. The statements for the provers, from the numbered rules of spec/. -/

open Sys2Proof Sys2Proof.Machine

/-! ### Reset, words and steps -/

/-- R240 (with the values of R49): after reset the block is disabled and idle, its flag, counters and trace are clear, its
pins are released and no other register holds a value; while the host lets time pass nothing changes; and the first word
that can have an effect is an INIT. -/
def Obligations.ResetIsQuietUntilInit : Prop :=
  State.reset.enabled = false ∧ State.reset.cfg &&& 0x7E00#16 = 0#16 ∧ State.reset.stat = 0x0000#16
    ∧ State.reset.seq = .idle ∧ State.reset.ai = .x ∧ State.reset.hl = false ∧ State.reset.edge = 0
    ∧ State.reset.csn = .released ∧ State.reset.sck = .released ∧ State.reset.sdo = .released ∧ State.reset.trace = []
    ∧ State.reset.held = ⟨false, ⟨false, false, false⟩, false, 0#8, false, false⟩
    ∧ State.reset.portRegister 0 = .noValue
    ∧ step (State.reset.withProgram []) = .next (State.reset.withProgram [])
    ∧ (∀ rest, step (State.reset.withProgram (.pause :: rest)) = .next (State.reset.withProgram rest))
    ∧ ∀ c rest t, step (State.reset.withProgram (.present c :: rest)) = .next t → ∃ cfg, decode c = .ok (.init cfg)

/-- A few words written out from the tables of R91, R96 to R100 and the vectors E1 to E29 decode to what they stand for.
(The layout of the command word is the spec's own decision D20.) -/
def Obligations.TabledWordsDecode : Prop :=
  decode (.command 0x100000D3#32) = .ok (.init 0x0D3#9) ∧ decode (.command 0x20000000#32) = .ok .select
    ∧ decode (.command 0x30000000#32) = .ok .deselect ∧ decode (.command 0x4000008F#32) = .ok (.xfer 0x8F#8)
    ∧ decode (.command 0x50000F00#32) = .ok (.rdreg 15) ∧ decode (.command 0x6000200F#32) = .ok (.wrreg 32 0x0F#8)
    ∧ decode (.command 0x70007A00#32) = .ok (.rdaxes 122) ∧ decode (.frame 0x8F00#16) = .ok (.rdframe 15)
    ∧ decode (.frame 0x200F#16) = .ok (.wrframe 32 0x0F#8)
    ∧ (∀ w ∈ [0x00000000#32, 0x80000000#32, 0xFFFFFFFF#32, 0x20000001#32, 0x40000100#32, 0x50008F00#32, 0x50000F01#32,
        0x10000210#32, 0x61000F0F#32], (decode (.command w)).toOption = none)

/-- R101, its last sentence, for both encodings: the word of every well-formed instruction decodes to it, and a word that
decodes to an instruction is that instruction's word. -/
def Obligations.DecodeAndEncodeAreInverse : Prop :=
  (∀ i, WellFormed i = true → decode (encode i) = .ok i)
    ∧ ∀ c i, decode c = .ok i → WellFormed i = true ∧ encode i = c

/-- R102 (the spec's own decision D21): a word with a reserved opcode or a 1 in a must-be-zero bit is refused as
`reservedEncoding`, in every idle state; every other word is a command, which the step runs. -/
def Obligations.ReservedWordsAreRefused : Prop :=
  ∀ (w : CommandWord) (s : State) (rest : List HostRequest), s.seq = .idle →
    s.env.program = .present (.command w) :: rest →
      (reservedWord w = true → step s = .refused .reservedEncoding)
        ∧ (reservedWord w = false → ∃ i, decode (.command w) = .ok i ∧ step s = exec i (s.withProgram rest))

/-- The step of an idle machine whose next request is a word that decodes to `i` is `exec i`, the request taken from the
list. -/
def Obligations.StepRunsTheDecodedInstruction : Prop :=
  ∀ (c : CodeWord) (i : Instr) (s : State) (rest : List HostRequest), s.seq = .idle →
    s.env.program = .present c :: rest → decode c = .ok i → step s = exec i (s.withProgram rest)

/-- R262: while the host lets time pass, or has nothing left to ask, no state of SMRF changes; a pause only leaves the list of
the host's requests. -/
def Obligations.IdleTimeChangesNothing : Prop :=
  (∀ (s : State) (rest : List HostRequest), s.seq = .idle → s.env.program = .pause :: rest →
    step s = .next (s.withProgram rest))
    ∧ ∀ s : State, s.seq = .idle → s.env.program = [] → step s = .next s

/-- R28 (the register numbers are the spec's own decision D11): the read port gives each of the six registers that holds a
value, RXD zero-extended, reserved bits as 0; it refuses the numbers 6 to 15; and a read changes no register, flag, pin or
event. `hostData` is the model's own field for the value given (log entry 18). -/
def Obligations.HostReadGivesTheNumberedRegister : Prop :=
  ∀ (n : Fin 16) (s : State) (rest : List HostRequest), s.seq = .idle → s.env.program = .read n :: rest →
    (6 ≤ n.val → step s = .refused .noSuchRegister)
      ∧ ∀ v, (n.val = 0 ∧ s.enabled = true ∧ v = s.cfg &&& 0x81FF#16)
          ∨ (n.val = 1 ∧ v = s.stat &&& 0x0001#16)
          ∨ (n.val = 2 ∧ s.held.rxd = true ∧ v = 0x00#8 ++ s.rxd)
          ∨ (n.val = 3 ∧ s.held.axis.x = true ∧ v = s.axis.x)
          ∨ (n.val = 4 ∧ s.held.axis.y = true ∧ v = s.axis.y)
          ∨ (n.val = 5 ∧ s.held.axis.z = true ∧ v = s.axis.z) →
        step s = .next { s.withProgram rest with hostData := some v }

/-- R215, the host's reads (the value the hardware returns is free, log entry 6): a read of a register that holds no value
gives some value in the register's own bits, records the fault `UnwrittenRead` in `unwrittenReads` and changes nothing else;
and no step ever takes a recorded fault away. -/
def Obligations.HostReadOfAValuelessRegisterIsRecorded : Prop :=
  (∀ (n : Fin 16) (s : State) (rest : List HostRequest), s.seq = .idle → s.env.program = .read n :: rest →
    (n.val = 0 ∧ s.enabled = false) ∨ (n.val = 2 ∧ s.held.rxd = false) ∨ (n.val = 3 ∧ s.held.axis.x = false)
        ∨ (n.val = 4 ∧ s.held.axis.y = false) ∨ (n.val = 5 ∧ s.held.axis.z = false) →
      ∃ v, step s = .next { s.withProgram rest with hostData := some v, unwrittenReads := s.unwrittenReads + 1 }
        ∧ (n.val = 0 → v &&& 0xFE00#16 = 0#16) ∧ (n.val = 2 → v &&& 0xFF00#16 = 0#16))
    ∧ ∀ s t : State, step s = .next t → s.unwrittenReads ≤ t.unwrittenReads

/-! ### Bus Driver -/

/-- R122: from a disabled idle state INIT with a legal configuration sets CFG to `0x8000 | cfg`, drives CSN to 1, SCK to its
idle level and SDO to some level, and retires; the data registers, the flag and the trace keep their values. -/
def Obligations.InitConfiguresAndEnables : Prop :=
  ∀ (cfg : BitVec 9) (s : State), s.seq = .idle → s.enabled = false →
    cfg.getLsbD 3 = false → cfg.getLsbD 4 = true → cfg.getLsbD 5 = false →
      ∃ level, exec (.init cfg) s = .next
        { s with
          cfg := 0x8000#16 ||| cfg.setWidth 16, csn := .driven true, sck := .driven (cfg.getLsbD 1), sdo := .driven level
          cmdr := 0x10000000#32 ||| cfg.setWidth 32, held := { s.held with cmdr := true }, shifting := false }

/-- R125 (the spec's own decision D29; that `exec` makes the five micro-steps in one step is log entry 16): the states inside
INIT from a disabled state. CSN is driven to 1 by step 2, before SCK and SDO are driven at all, which is step 3; SCK has its
idle level and CFG its fields from step 4; EN is 1 only after step 5; and no micro-step changes anything else. INIT makes
exactly these steps. -/
def Obligations.InitDrivesChipSelectBeforeTheBusPins : Prop :=
  ∀ (cfg : BitVec 9) (s : State), s.enabled = false →
    (∀ n, n ≤ 5 →
      (s.initSteps cfg n).csn = (if n < 2 then s.csn else .driven true)
        ∧ (n < 3 → (s.initSteps cfg n).sck = s.sck ∧ (s.initSteps cfg n).sdo = s.sdo)
        ∧ (n = 3 → ∃ level, (s.initSteps cfg n).sck = .driven level)
        ∧ (3 ≤ n → ∃ level, (s.initSteps cfg n).sdo = .driven level)
        ∧ (4 ≤ n → (s.initSteps cfg n).sck = .driven (cfg.getLsbD 1))
        ∧ (s.initSteps cfg n).cfg
          = (if n < 4 then s.cfg else if n = 4 then cfg.setWidth 16 else 0x8000#16 ||| cfg.setWidth 16)
        ∧ (s.initSteps cfg n).enabled = decide (n = 5)
        ∧ { s.initSteps cfg n with csn := s.csn, sck := s.sck, sdo := s.sdo, cfg := s.cfg } = s)
      ∧ (s.seq = .idle → legalConfig cfg = true →
        exec (.init cfg) s = .next ((s.accept (commandWord (.init cfg)) .data).initSteps cfg 5).retire)

/-- R123 (the spec's own decision D15): INIT while EN = 1 is refused, whatever its configuration. -/
def Obligations.SecondInitIsRefused : Prop :=
  ∀ (cfg : BitVec 9) (s : State), s.seq = .idle → s.enabled = true → exec (.init cfg) s = .refused .alreadyInitialized

/-- R124 (the spec's own decision D10): from a disabled idle state INIT is refused exactly when DUPLEX = 1, MSTR = 0 or
CSMODE = 1. -/
def Obligations.ReservedConfigurationIsRefused : Prop :=
  ∀ (cfg : BitVec 9) (s : State), s.seq = .idle → s.enabled = false →
    (exec (.init cfg) s = .refused .reservedConfig ↔
      cfg.getLsbD 3 = true ∨ cfg.getLsbD 4 = false ∨ cfg.getLsbD 5 = true)

/-- R121 (the spec's own decision D14): while EN = 0 every command but INIT is refused. -/
def Obligations.CommandsBeforeInitAreRefused : Prop :=
  ∀ (i : Instr) (s : State), s.seq = .idle → s.enabled = false → (∀ cfg, i ≠ .init cfg) →
    exec i s = .refused .notInitialized

/-- R27 (the spec's own decision D5): an accepted command's word is in CMDR when it has retired and while it waits. For a
wire frame the word is the model's choice (log entry 9). -/
def Obligations.TheAcceptedCommandIsInCmdr : Prop :=
  ∀ (i : Instr) (s t : State), exec i s = .next t →
    t.held.cmdr = true ∧ t.cmdr = commandWord i
      ∧ (∀ w, encode i = .command w → t.cmdr = w)
      ∧ (WellFormed i = true → ∃ j, decodeCommand t.cmdr = .ok j ∧ commandWord j = t.cmdr)

/-- R126: SELECT, accepted when SEQ = IDLE and EN = 1, drives CSN to 0 and appends `select`; it retires at once and touches
no other pin, data register or flag. (CMDR is R27's, the flag `shifting` is the model's.) -/
def Obligations.SelectDrivesChipSelectLow : Prop :=
  ∀ s : State, s.seq = .idle → s.enabled = true → ∃ w h b,
    encode .select = .command 0x20000000#32 ∧ exec .select s = .next
      { s with csn := .driven false, trace := s.trace ++ [.select], cmdr := w, held := { s.held with cmdr := h }, shifting := b }

/-- R128: DESELECT, accepted when SEQ = IDLE and EN = 1, drives CSN to 1 and appends `deselect`; it retires at once and touches
no other pin, data register or flag. -/
def Obligations.DeselectDrivesChipSelectHigh : Prop :=
  ∀ s : State, s.seq = .idle → s.enabled = true → ∃ w h b,
    encode .deselect = .command 0x30000000#32 ∧ exec .deselect s = .next
      { s with csn := .driven true, trace := s.trace ++ [.deselect], cmdr := w, held := { s.held with cmdr := h }, shifting := b }

/-- R130: XFER, accepted when SEQ = IDLE and EN = 1 whatever CSN is, sends its byte and receives the slave's answer: TXSR, RXSR
and RXD hold the two bytes, TC is 1, one event is appended, SCK is back at its idle level, and of the spec's state only SDO,
EDGE and CMDR change besides. It blocks until the sixteenth edge: with a clock that stops before, it has not retired. The
rule does not say all of this: the sixteen edges and EDGE are the spec's own decision D22, SCK between transfers its D23, TXSR
and RXSR its D5, the clock as a count of edges is log entry 3 (D25), TC = 0 when the clock stops is the
edge granularity's (log entry 1), and the flag `shifting` is log entry 8. -/
def Obligations.XferExchangesOneByte : Prop :=
  ∀ (d : Byte) (s : State), s.seq = .idle → s.enabled = true →
    encode (.xfer d) = .command (0x40000000#32 ||| d.setWidth 32)
      ∧ (s.env.clockCovers 16 = true → ∃ w level env, exec (.xfer d) s = .next
        { s with
          txsr := d, rxsr := s.env.reply s.trace d, rxd := s.env.reply s.trace d, stat := s.stat ||| 0x0001#16
          trace := s.trace ++ [.send d (s.env.reply s.trace d)], cmdr := w
          held := { s.held with cmdr := true, txsr := true, rxsr := 0xFF#8, rxd := true }
          sck := .driven s.cpol, sdo := .driven level, edge := 16, shifting := false, env := env })
      ∧ ∀ m, s.env.clock = some m → m < 16 → ∃ t, exec (.xfer d) s = .next t ∧ t.seq ≠ .idle ∧ t.tc = false

/-- R134: with a clock that stops after m < 16 edges XFER does not retire: TC is 0, RXD, CSN and the trace are as before, m
edges are done; and as long as the clock does not come back no step is enabled: the machine is stuck (R216). (TC, TXSR
and EDGE are those of the edge granularity, the spec's own decision D22; log entry 1, C6(e).) -/
def Obligations.XferWithoutClockNeverRetires : Prop :=
  ∀ (d : Byte) (s : State) (m : Nat), s.seq = .idle → s.enabled = true → m < 16 →
    ∃ t, exec (.xfer d) (s.withClock (some m) []) = .next t ∧ t.seq ≠ .idle ∧ t.tc = false ∧ t.rxd = s.rxd
      ∧ t.csn = s.csn ∧ t.trace = s.trace ∧ t.edge = m ∧ t.txsr = d ∧ step t = .fault .stuck

/-! ### Register Client -/

/-- R184: RDREG, accepted when SEQ = IDLE, EN = 1 and CSN = 1, sends the header `0x80 | addr` and the dummy byte 0x00 between
one `select` and one `deselect`, and its result RXD is the byte received with the dummy byte; TC is 1, CSN 1 and SEQ IDLE
again. The rule does not name the other changes: SDO at the dummy byte's last bit, and SCK idle, are the spec's own decisions
D22 and D23, EDGE = 16 its D22, TXSR, RXSR and CMDR its D5, the 32 edges of the clock are log entry 3 (D25), and `shifting` is
log entry 8; no other register changes. -/
def Obligations.RdregReadsOneRegister : Prop :=
  ∀ (a : Nat) (s : State), a ≤ 127 → s.ready = true → s.env.clockCovers 32 = true →
    ∃ i0 i1 env, s.env.answersIn s.trace (frameEvents (0x80#8 ||| BitVec.ofNat 8 a) i0 0x00#8 i1) = true
      ∧ encode (.rdreg a) = .command (0x50000000#32 ||| BitVec.ofNat 32 (a * 256))
      ∧ exec (.rdreg a) s = .next
        { s with
          rxd := i1, txsr := 0x00#8, rxsr := i1, stat := s.stat ||| 0x0001#16
          trace := s.trace ++ frameEvents (0x80#8 ||| BitVec.ofNat 8 a) i0 0x00#8 i1
          cmdr := 0x50000000#32 ||| BitVec.ofNat 32 (a * 256)
          held := { s.held with cmdr := true, txsr := true, rxsr := 0xFF#8, rxd := true }
          sck := .driven s.cpol, sdo := .driven false, edge := 16, shifting := false, env := env }

/-- R188 and R190: WRREG, accepted when SEQ = IDLE, EN = 1 and CSN = 1, sends the address itself, bit 7 clear, and then the
value, any of the 256, unchanged, between one `select` and one `deselect`; TC is 1, CSN 1 and SEQ IDLE again, RXD holds the
response to the data byte. The rules do not name the other changes: SDO at the value's last bit on the wire is the spec's own
decisions D9, D22 and D23, SCK idle its D23, EDGE = 16 its D22, TXSR, RXSR and CMDR its D5, the 32 edges of the clock are log
entry 3 (D25), and `shifting` is log entry 8; no other register changes. -/
def Obligations.WrregWritesOneRegister : Prop :=
  ∀ (a : Nat) (v : Byte) (s : State), a ≤ 127 → s.ready = true → s.env.clockCovers 32 = true →
    ∃ i0 i1 env, s.env.answersIn s.trace (frameEvents (BitVec.ofNat 8 a) i0 v i1) = true
      ∧ (BitVec.ofNat 8 a).getLsbD 7 = false
      ∧ encode (.wrreg a v) = .command (0x60000000#32 ||| BitVec.ofNat 32 (a * 256) ||| v.setWidth 32)
      ∧ exec (.wrreg a v) s = .next
        { s with
          rxd := i1, txsr := v, rxsr := i1, stat := s.stat ||| 0x0001#16
          trace := s.trace ++ frameEvents (BitVec.ofNat 8 a) i0 v i1
          cmdr := 0x60000000#32 ||| BitVec.ofNat 32 (a * 256) ||| v.setWidth 32
          held := { s.held with cmdr := true, txsr := true, rxsr := 0xFF#8, rxd := true }
          sck := .driven s.cpol, sdo := .driven (v.getLsbD (if s.lsbFirst then 7 else 0)), edge := 16, shifting := false
          env := env }

/-- R192 (the addresses base + 2*AI and their order are the spec's own decision D19): RDAXES, accepted when SEQ = IDLE,
EN = 1, CSN = 1 and base + 5 ≤ 127, makes six read transactions at base, base + 1, … , base + 5, and AXIS[i] is the byte of
base + 2i + 1 above the byte of base + 2i; LOB and RXD hold the two bytes of Z, AI = 2, HL = 0, TC is 1, CSN 1 and SEQ IDLE
again. (SDO at the dummy byte's last bit and SCK idle: D22 and D23; EDGE = 16: D22; LOB, TXSR, RXSR and CMDR: D5; the 192 edges
of the clock: log entry 3, D25; `shifting`: log entry 8.) -/
def Obligations.RdaxesAssemblesThreeSamples : Prop :=
  ∀ (base : Nat) (s : State), base + 5 ≤ 127 → s.ready = true → s.env.clockCovers 192 = true →
    ∃ (j b : Nat → Byte) (env : Env), s.env.answersIn s.trace (axisFrames base j b) = true
      ∧ encode (.rdaxes base) = .command (0x70000000#32 ||| BitVec.ofNat 32 (base * 256))
      ∧ exec (.rdaxes base) s = .next
        { s with
          axis := ⟨b 1 ++ b 0, b 3 ++ b 2, b 5 ++ b 4⟩, lob := b 4, ai := .z, hl := false
          rxd := b 5, txsr := 0x00#8, rxsr := b 5, stat := s.stat ||| 0x0001#16
          trace := s.trace ++ axisFrames base j b, cmdr := 0x70000000#32 ||| BitVec.ofNat 32 (base * 256)
          held := ⟨true, ⟨true, true, true⟩, true, 0xFF#8, true, true⟩
          sck := .driven s.cpol, sdo := .driven false, edge := 16, shifting := false, env := env }

/-- R66 and R48 as the model keeps them (log entries 2 and 3): a command that has retired has used one answer of the slave a
transfer and sixteen edges of the clock a transfer, and nothing else of the environment. -/
def Obligations.ARetiredCommandHasUsedItsAnswersAndEdges : Prop :=
  ∀ (i : Instr) (s t : State), exec i s = .next t → t.seq = .idle →
    t.env = (s.env.answeredTimes (edgesNeeded i / 16)).clockUsed (edgesNeeded i) ∧ s.env.clockCovers (edgesNeeded i) = true

/-- R91 and R182: a wire frame is run as the transaction that puts exactly its two bytes on the bus, header byte first, while
CSN is 0. That a frame is run by itself, and that CMDR then holds the word of RDREG or WRREG, is the model's choice (log
entry 9). -/
def Obligations.WireFramePutsItsBytesOnTheBus : Prop :=
  (∀ (a : Nat) (s : State), a ≤ 127 → s.ready = true → s.env.clockCovers 32 = true →
    ∃ w i0 i1 t, encode (.rdframe a) = .frame w ∧ exec (.rdframe a) s = .next t ∧ t.seq = .idle ∧ t.csn = .driven true
      ∧ t.trace = s.trace ++ frameEvents (w.extractLsb' 8 8) i0 (w.extractLsb' 0 8) i1 ∧ t.rxd = i1
      ∧ w.getLsbD 15 = true ∧ t.axis = s.axis ∧ t.cfg = s.cfg
      ∧ s.env.answersIn s.trace (frameEvents (w.extractLsb' 8 8) i0 (w.extractLsb' 0 8) i1) = true)
    ∧ ∀ (a : Nat) (v : Byte) (s : State), a ≤ 127 → s.ready = true → s.env.clockCovers 32 = true →
      ∃ w i0 i1 t, encode (.wrframe a v) = .frame w ∧ exec (.wrframe a v) s = .next t ∧ t.seq = .idle
        ∧ t.csn = .driven true
        ∧ t.trace = s.trace ++ frameEvents (w.extractLsb' 8 8) i0 (w.extractLsb' 0 8) i1 ∧ t.rxd = i1
        ∧ w.getLsbD 15 = false ∧ t.axis = s.axis ∧ t.cfg = s.cfg
        ∧ s.env.answersIn s.trace (frameEvents (w.extractLsb' 8 8) i0 (w.extractLsb' 0 8) i1) = true

/-- R180 (the refusal is the spec's own decision D17): with CSN = 0 the framer commands are refused, whatever their
addresses; with SEQ = IDLE, EN = 1, CSN = 1 and addresses in range they are accepted. -/
def Obligations.OpenFrameIsRefused : Prop :=
  (∀ (i : Instr) (s : State), s.seq = .idle → s.enabled = true → s.csn = .driven false → runsTransaction i = true →
    exec i s = .refused .frameOpen)
    ∧ ∀ (i : Instr) (s : State), s.seq = .idle → s.enabled = true → s.csn = .driven true → isFramerCommand i = true →
      ∃ t, exec i s = .next t

/-- R69 (the spec's own decision D18): a register command refuses exactly the addresses above 127, and RDAXES exactly the
bases above 122. A wire frame as an instruction refuses what the register command does that it is run as (log entry 9). -/
def Obligations.AddressesOutOfRangeAreRefused : Prop :=
  ∀ (n : Nat) (v : Byte) (s : State), s.ready = true →
    (exec (.rdreg n) s = .refused .addressRange ↔ 127 < n) ∧ (exec (.wrreg n v) s = .refused .addressRange ↔ 127 < n)
      ∧ (exec (.rdaxes n) s = .refused .addressRange ↔ 122 < n)
      ∧ (exec (.rdframe n) s = .refused .addressRange ↔ 127 < n)
      ∧ (exec (.wrframe n v) s = .refused .addressRange ↔ 127 < n)

/-- R213 (the spec's own decision D33): where more than one refusal applies, the first of ReservedEncoding, NotInitialized or
AlreadyInitialized, ReservedConfig, FrameOpen, AddressRange is reported. -/
def Obligations.TheFirstRefusalIsReported : Prop :=
  ∀ (s : State) (rest : List HostRequest) (c : CodeWord), s.seq = .idle → s.env.program = .present c :: rest →
    ((decode c).toOption = none → step s = .refused .reservedEncoding)
      ∧ ∀ i, decode c = .ok i →
        (s.enabled = false → (∀ cfg, i ≠ .init cfg) → step s = .refused .notInitialized)
          ∧ (s.enabled = true → (∃ cfg, i = .init cfg) → step s = .refused .alreadyInitialized)
          ∧ (s.enabled = false → (∃ cfg, i = .init cfg ∧ legalConfig cfg = false) → step s = .refused .reservedConfig)
          ∧ (s.enabled = true → runsTransaction i = true → s.csn = .driven false → step s = .refused .frameOpen)
          ∧ (s.enabled = true → (∃ b, i = .rdaxes b ∧ 122 < b) → s.csn = .driven true → step s = .refused .addressRange)

/-- R195: a register command, or a wire frame (log entry 9), whose clock stops after m < 32 edges does not retire; SEQ is
ADDR or DATA, the frame stays open, the trace ends with `select` or with `select` and the header byte's event, RXD holds what
it held or the answer to the header byte; and without a clock the machine is stuck (R216). TC = 0, the byte under way in TXSR
and EDGE are those of the edge granularity (R160, the spec's own decision D22; log entry 1), in which the start step of the
transfer has run; at the reference granularity TC and TXSR are others there (P5 of the vectors, C6(e)). -/
def Obligations.CutRegisterCommandLeavesItsFrameOpen : Prop :=
  ∀ (rw : Bool) (a : Nat) (v : Byte) (i : Instr) (s : State) (m : Nat), s.ready = true → a ≤ 127 → m < 32 →
    (rw = true ∧ (i = .rdreg a ∨ i = .rdframe a)) ∨ (rw = false ∧ (i = .wrreg a v ∨ i = .wrframe a v)) →
      ∃ t, exec i (s.withClock (some m) []) = .next t ∧ t.csn = .driven false ∧ t.tc = false
        ∧ t.seq = (if m < 16 then .addr else .data) ∧ t.edge = m % 16
        ∧ (m < 16 → t.trace = s.trace ++ [.select] ∧ t.rxd = s.rxd ∧ t.txsr = header rw a)
        ∧ (16 ≤ m → t.trace = s.trace ++ [.select, .send (header rw a) t.rxd]
          ∧ t.rxd = s.env.reply (s.trace ++ [.select]) (header rw a) ∧ t.txsr = dataByte rw v)
        ∧ step t = .fault .stuck

/-- R195 (the spec's own decision D36), for RDAXES: when its clock stops after m < 192 edges (D22; log entries 1 and 3), each
axis whose two bytes are in holds the sample the whole command gives it, and every other axis keeps what it held. -/
def Obligations.CutRdaxesKeepsTheFinishedAxes : Prop :=
  ∀ (base m : Nat) (s : State), s.ready = true → base + 5 ≤ 127 → m < 192 →
    ∃ t u, exec (.rdaxes base) (s.withClock (some m) []) = .next t
      ∧ exec (.rdaxes base) (s.withClock none []) = .next u
      ∧ t.csn = .driven false ∧ t.seq = (if m % 32 < 16 then .addr else .data)
      ∧ t.ai.index = m / 64 ∧ t.hl = decide (m / 32 % 2 = 1)
      ∧ ∀ ax : Axis,
        t.axis.get ax = (if 64 * (ax.index + 1) ≤ m then u.axis.get ax else s.axis.get ax)
          ∧ t.held.axis.get ax = (decide (64 * (ax.index + 1) ≤ m) || s.held.axis.get ax)

/-- R216: a command that waits for the clock after m edges goes on from there when the clock comes back: it ends in the
state the same command ends in without the pause. (`Inv` rules out idle states that no run reaches.) -/
def Obligations.AWaitingCommandGoesOnWhereItStood : Prop :=
  ∀ (i : Instr) (s v : State) (m : Nat) (c : Option Nat) (later : List (Option Nat)), Inv s → s.seq = .idle →
    exec i (s.withClock none []) = .next v → m < edgesNeeded i → (∀ b, c = some b → edgesNeeded i ≤ m + b) →
      ∃ t u w, exec i (s.withClock (some m) (c :: later)) = .next t ∧ t.seq ≠ .idle
        ∧ step t = .next u ∧ step u = .next w ∧ w.withClock none [] = v

/-- R196: from a state in which framer commands are accepted, with a clock that does not stop, any sequence of framer
commands completes, leaves a register-framed trace register framed, and ends with CSN = 1 and SEQ = IDLE. -/
def Obligations.FramerCommandsKeepTheTraceRegisterFramed : Prop :=
  ∀ (is : List Instr) (s : State), s.ready = true → s.env.clock = none → (∀ i ∈ is, isFramerCommand i = true) →
    registerFramed s.trace = true →
      ∃ t, execAll is s = .next t ∧ registerFramed t.trace = true ∧ t.ready = true

/-- R198: the four Bus Driver commands that build a frame by hand leave the state the register command leaves, CMDR aside. -/
def Obligations.AHandBuiltFrameEqualsTheRegisterCommand : Prop :=
  ∀ (i : Instr) (s : State), s.ready = true → s.env.clockCovers 32 = true →
    (∃ a, i = .rdreg a ∧ a ≤ 127) ∨ (∃ a v, i = .wrreg a v ∧ a ≤ 127) →
      ∃ t u, exec i s = .next t ∧ execAll (expansion i) s = .next u ∧ { u with cmdr := t.cmdr } = t

/-- R105, for RDAXES: the six register reads it stands for leave the state it leaves, but for CMDR, LOB, AI, HL and the
three AXIS registers, which no other command writes. -/
def Obligations.SixRegisterReadsEqualRdaxesButForTheSamples : Prop :=
  ∀ (base : Nat) (s : State), s.ready = true → s.env.clockCovers 192 = true → base + 5 ≤ 127 →
    ∃ t u, exec (.rdaxes base) s = .next t ∧ execAll (expansion (.rdaxes base)) s = .next u
      ∧ u = { t with
          cmdr := u.cmdr, lob := s.lob, ai := s.ai, hl := s.hl, axis := s.axis
          held := { t.held with lob := s.held.lob, axis := s.held.axis } }

/-- R12: a register command run at serial-clock edges ends as the four steps of its transaction at transfer granularity do,
in everything the transfer granularity shows. -/
def Obligations.RegisterCommandsAgreeWithTheTransferGranularity : Prop :=
  ∀ (rw : Bool) (a : Nat) (v : Byte) (s : State), s.ready = true → s.env.clock = none → a ≤ 127 →
    ∃ t, exec (if rw then .rdreg a else .wrreg a v) s = .next t
      ∧ t.transferView =
        ((s.accept (commandWord (if rw then .rdreg a else .wrreg a v)) .select).sequencerSteps rw a v .idle 4).transferView

/-- R12, for RDAXES: it ends as its six transactions at transfer granularity do. -/
def Obligations.RdaxesAgreesWithTheTransferGranularity : Prop :=
  ∀ (base : Nat) (s : State), s.ready = true → s.env.clock = none → base + 5 ≤ 127 →
    ∃ t, exec (.rdaxes base) s = .next t
      ∧ t.transferView =
        (((s.accept (commandWord (.rdaxes base)) .select).startAxes).axisSequence base 6).transferView

/-! ### The shifter -/

/-- R160 with the positions of R154 (from general knowledge by R150: the spec's own decisions D8, D9 and D22): the start
step; an edge step without a clock, or after the sixteenth edge, changes nothing; the leading and the trailing edge of cell k,
by CPHA, CPOL and LSBFIRST, where `draw` is what is sampled. (What they do to the model's own `env` is left open here.) -/
def Obligations.EdgeStepsFollowPolarityPhaseAndBitOrder : Prop :=
  (∀ (s : State) (out : Byte), ∃ b, s.startTransfer out =
    { s with
      stat := s.stat &&& 0xFFFE#16, txsr := out, held := { s.held with txsr := true }, edge := 0, shifting := b
      sdo := if s.cpha then s.sdo else .driven (out.getLsbD (if s.lsbFirst then 0 else 7)) })
    ∧ ∀ s : State, s.shifting = true → s.enabled = true →
      (s.env.clockRunning = false ∨ 16 ≤ s.edge → s.edgeStep = s)
        ∧ ∀ k p q, s.env.clockRunning = true → k < 8 → p = (if s.lsbFirst then k else 7 - k) →
          q = (if s.lsbFirst then k + 1 else 7 - (k + 1)) →
          (s.edge = 2 * k → ∃ draw env, s.edgeStep = { s with
            edge := 2 * k + 1, env := env, sck := .driven (!s.cpol)
            sdo := if s.cpha then .driven (s.txsr.getLsbD p) else s.sdo
            rxsr := if s.cpha then s.rxsr else setBit s.rxsr p draw
            held := { s.held with rxsr := if s.cpha then s.held.rxsr else setBit s.held.rxsr p true } })
            ∧ (s.edge = 2 * k + 1 → ∃ draw env, s.edgeStep = { s with
              edge := 2 * k + 2, env := env, sck := .driven s.cpol
              sdo := if s.cpha = false ∧ k < 7 then .driven (s.txsr.getLsbD q) else s.sdo
              rxsr := if s.cpha then setBit s.rxsr p draw else s.rxsr
              held := { s.held with rxsr := if s.cpha then setBit s.held.rxsr p true else s.held.rxsr } })

/-- R162 (that it is one step, after the sixteenth edge, is the spec's own decision D22, from general knowledge by R150): at
EDGE = 16 the completion loads RXD from RXSR, sets TC and appends the event, in one step, and changes nothing else of the
spec's state; before, it does nothing. (What it does to the model's own `shifting` and `env` is left open here.) -/
def Obligations.CompletionLoadsRxdAndSetsTc : Prop :=
  ∀ s : State, s.shifting = true →
    (s.edge = 16 → ∃ b env, s.complete =
      { s with
        rxd := s.rxsr, stat := s.stat ||| 0x0001#16, trace := s.trace ++ [.send s.txsr s.rxsr]
        held := { s.held with rxd := true }, shifting := b, env := env })
      ∧ (s.edge ≠ 16 → s.complete = s)

/-- R156 (from general knowledge by R150: the spec's own decision D22): TXSR is loaded at the start and not changed by the
edges; edge n + 1 changes no bit of RXSR but that of its own cell, and that one only if it is the cell's sampling edge; after
a sampling edge its cell's bit holds a value, and after the sixteenth edge every bit does, whatever RXSR held before. -/
def Obligations.RxsrIsFilledOneBitPerCell : Prop :=
  ∀ (s : State) (out : Byte) (n : Nat), s.enabled = true → s.env.clockCovers 16 = true → n < 16 →
    ((s.startTransfer out).edges n).txsr = out ∧ ((s.startTransfer out).edges (n + 1)).txsr = out
      ∧ (∀ i < 8, (i ≠ (if s.lsbFirst then n / 2 else 7 - n / 2) ∨ decide (n % 2 = 1) ≠ s.cpha) →
        ((s.startTransfer out).edges (n + 1)).rxsr.getLsbD i = ((s.startTransfer out).edges n).rxsr.getLsbD i
          ∧ ((s.startTransfer out).edges (n + 1)).held.rxsr.getLsbD i = ((s.startTransfer out).edges n).held.rxsr.getLsbD i)
      ∧ (decide (n % 2 = 1) = s.cpha → ((s.startTransfer out).edges (n + 1)).held.rxsr.getLsbD
        (if s.lsbFirst then n / 2 else 7 - n / 2) = true)
      ∧ ((s.startTransfer out).edges 16).held.rxsr = 0xFF#8

/-- R152: after n edges of a transfer SCK is away from its idle level if n is odd and at it if n is even, from the first edge
to the sixteenth. -/
def Obligations.TheClockLeavesItsIdleLevelOnOddEdges : Prop :=
  ∀ (s : State) (out : Byte) (n : Nat), s.enabled = true → s.env.clockCovers n = true → 1 ≤ n → n ≤ 16 →
    ((s.startTransfer out).edges n).sck = .driven (s.cpol != decide (n % 2 = 1))

/-- R154 with R158 (that the draws make up the slave's byte is the spec's own decision D24): at the sampling edge of cell k,
SDO carries bit `pos(k)` of the byte sent, and RXSR takes bit `pos(k)` of the byte received. -/
def Obligations.EachCellCarriesItsBit : Prop :=
  ∀ (s : State) (out : Byte) (k : Nat), s.enabled = true → s.env.clockCovers 16 = true → k < 8 →
    ((s.startTransfer out).edges (if s.cpha then 2 * k + 2 else 2 * k + 1)).sdo
        = .driven (out.getLsbD (if s.lsbFirst then k else 7 - k))
      ∧ ((s.startTransfer out).edges (if s.cpha then 2 * k + 2 else 2 * k + 1)).rxsr.getLsbD
          (if s.lsbFirst then k else 7 - k)
        = (s.env.reply s.trace out).getLsbD (if s.lsbFirst then k else 7 - k)

/-- R166: for every CPOL, CPHA, LSBFIRST and PRESC the start step, the sixteen edge steps and the completion end with the
TXSR, RXSR, RXD, STAT and event of the one-step exchange, and with SCK at its idle level. -/
def Obligations.SixteenEdgesEqualOneExchange : Prop :=
  ∀ (s : State) (out : Byte), s.enabled = true → s.env.clockCovers 16 = true →
    ((((s.startTransfer out).edges 16).complete).withClock none []).transferView
        = (({ s.exchange out with shifting := false }).withClock none []).transferView
      ∧ (((s.startTransfer out).edges 16).complete).sck = .driven s.cpol

/-- R166 and R30: no command's outcome depends on CPOL, CPHA, LSBFIRST or PRESC, but for the pin levels: of an enabled
machine's commands (INIT is refused there), and of the INIT of a disabled one with any two legal configurations, whose words
are in CFG and CMDR. -/
def Obligations.WireConfigurationOnlyShapesThePins : Prop :=
  (∀ (i : Instr) (s : State) (c1 c2 : BitVec 9) (t1 : State), s.env.clock = none →
    exec i { s with cfg := configured c1 } = .next t1 →
      ∃ t2, exec i { s with cfg := configured c2 } = .next t2
        ∧ { t1.transferView with cfg := 0 } = { t2.transferView with cfg := 0 })
    ∧ ∀ (s : State) (c1 c2 : BitVec 9) (t1 : State), legalConfig c2 = true → exec (.init c1) s = .next t1 →
      ∃ t2, exec (.init c2) s = .next t2
        ∧ { t1.transferView with cfg := 0, cmdr := 0 } = { t2.transferView with cfg := 0, cmdr := 0 }

/-! ### The whole machine -/

/-- The invariant holds after reset. -/
def Obligations.TheInvariantHoldsAtReset : Prop := Inv State.reset

/-- Every step keeps the invariant: legal configuration, pins released before INIT and driven after it, SCK at its idle level
between transfers, a running command always in a transfer with TC = 0, RXD loaded whenever TC = 1 (R31, R35, R38, R122,
R152, R162, R195). TC = 0 in a running command is the edge granularity's (D22; log entry 1). Three of its parts are the
model's reading: SEQ = DATA while XFER waits (`waitsInCommand`) is log entry 7 (DEDUCED, unsafe), the flag `shifting` is log
entry 8, and that a waiting command's registers hold values (`holdsWhatItReads`) is log entry 14. -/
def Obligations.EveryStepKeepsTheInvariant : Prop := ∀ s t : State, Inv s → step s = .next t → Inv t

/-- R40: once EN = 1 no step and no command changes CFG; no command but INIT ever writes it; a second INIT is refused. -/
def Obligations.ConfigurationIsImmutableOnceEnabled : Prop :=
  (∀ s t : State, s.enabled = true → step s = .next t → t.cfg = s.cfg)
    ∧ (∀ (i : Instr) (s t : State), s.enabled = true → exec i s = .next t → t.cfg = s.cfg)
    ∧ (∀ (i : Instr) (s t : State), (∀ cfg, i ≠ .init cfg) → exec i s = .next t → t.cfg = s.cfg)
    ∧ ∀ (cfg : BitVec 9) (s : State), s.enabled = true → ∃ r, exec (.init cfg) s = .refused r

/-- R44: no step takes an event away; TRACE after is TRACE before and perhaps more. -/
def Obligations.TheTraceIsNeverShortened : Prop :=
  ∀ s t : State, step s = .next t → ∃ added, t.trace = s.trace ++ added

/-- R43: CSN changes only by the steps `select` (to 0) and `deselect` (to 1) and by INIT (to 1): after a step of an enabled
machine CSN is where the last of the step's chip-select events put it, and where it was if there is none; the step that
enables the machine drives it to 1; while the machine stays disabled it stays as it is. -/
def Obligations.ChipSelectMovesOnlyWithItsEvents : Prop :=
  ∀ (s t : State) (added : List BusEvent), step s = .next t → t.trace = s.trace ++ added →
    (s.enabled = true → t.csn = chipSelectAfter s.csn added)
      ∧ (s.enabled = false → t.enabled = true → t.csn = .driven true)
      ∧ (s.enabled = false → t.enabled = false → s.seq = .idle → t.csn = s.csn)

/-- R24: only RDAXES writes AXIS. -/
def Obligations.OnlyRdaxesWritesTheSamples : Prop :=
  ∀ (i : Instr) (s t : State), (∀ b, i ≠ .rdaxes b) → exec i s = .next t →
    t.axis = s.axis ∧ t.held.axis = s.held.axis

/-- R217 and R210: a command retires, or is refused, or waits for the clock in a transfer; none ends in a fault. -/
def Obligations.ACommandRetiresIsRefusedOrWaits : Prop :=
  ∀ (i : Instr) (s : State), (∃ r, exec i s = .refused r)
    ∨ ∃ t, exec i s = .next t ∧ (t.seq = .idle ∨ t.waiting = true)

/-- R66: whether a command has a step, is refused and why, is the same for every answer of the slave; and so is every part of
the state it leaves but the received bytes: those in the trace, in RXD, RXSR, LOB and AXIS, and what is left of the slave's
own choices. The one exception is the level of SDO after INIT, a free value (R164; log entry 5) that the model draws from the
same counter. -/
def Obligations.TheSlaveOnlyChoosesBytes : Prop :=
  ∀ (i : Instr) (s s' : State) (answers : List Byte) (draws : Nat),
    s' = { s with env := { s.env with answers := answers, draws := draws } } →
      sameKind (exec i s) (exec i s') = true
        ∧ ∀ t t', exec i s = .next t → exec i s' = .next t' →
          sourceTrace t.trace = sourceTrace t'.trace
            ∧ ((∀ cfg, i ≠ .init cfg) → t.sdo = t'.sdo)
            ∧ t' = { t with
                rxd := t'.rxd, rxsr := t'.rxsr, lob := t'.lob, axis := t'.axis, trace := t'.trace, sdo := t'.sdo
                env := { t.env with answers := t'.env.answers, draws := t'.env.draws } }

/-- R67, a claim under the ideal register-file slave, with the premise that the environment holds its registers still: if it
explains every byte received, a register read returns what the
register held, and a write followed by a read of the same register returns the value written. -/
def Obligations.IdealSlaveReturnsWhatWasWritten : Prop :=
  (∀ (a : Fin 128) (s t : State) (sl : IdealSlave) (added : List BusEvent), s.ready = true → s.env.clock = none →
    exec (.rdreg a) s = .next t → t.trace = s.trace ++ added → sl.explains added = true → t.rxd = sl.sreg.get a)
    ∧ ∀ (a : Fin 128) (v : Byte) (s t : State) (sl : IdealSlave) (added : List BusEvent), s.ready = true →
      s.env.clock = none → execAll [.wrreg a v, .rdreg a] s = .next t → t.trace = s.trace ++ added →
        sl.explains added = true → t.rxd = v

/-- R67 (the spec's own decision D24), when the environment also changes the slave's registers between events (log entry 20):
of any run of bus events and such changes that explains what was received, the data byte of a register read answers the
register as it stands at that moment, and right after the data byte of a register write the register holds the value. -/
def Obligations.IdealSlaveReadsTheRegisterAsItStands : Prop :=
  (∀ (a : Fin 128) (s t : State) (sl : IdealSlave) (moves : List SlaveMove), s.ready = true → s.env.clock = none →
    exec (.rdreg a) s = .next t → t.trace = s.trace ++ busEvents moves → sl.explainsMoves moves = true →
      ∃ before after, moves = before ++ .bus (.send 0x00#8 t.rxd) :: after ∧ (busEvents before).length = 2
        ∧ t.rxd = (sl.afterMoves before).sreg.get a)
    ∧ ∀ (a : Fin 128) (v : Byte) (s t : State) (sl : IdealSlave) (moves : List SlaveMove), s.ready = true →
      s.env.clock = none → exec (.wrreg a v) s = .next t → t.trace = s.trace ++ busEvents moves →
        ∃ before after, moves = before ++ .bus (.send v t.rxd) :: after ∧ (busEvents before).length = 2
          ∧ ((sl.afterMoves before).move (.bus (.send v t.rxd))).sreg.get a = v

/-! ### Operands -/

/-- R92: the header byte is the flag above the address; a read's is `addr | 0x80`, a write's is the address, and a second OR
with 0x80 changes nothing. -/
def Obligations.HeaderByteIsFlagAboveAddress : Prop :=
  ∀ a : Nat, a ≤ 127 →
    header true a = BitVec.ofNat 8 a ||| 0x80#8 ∧ header false a = BitVec.ofNat 8 a
      ∧ header true a ||| 0x80#8 = header true a
      ∧ ∀ rw, (header rw a).getLsbD 7 = rw ∧ (header rw a).extractLsb' 0 7 = BitVec.ofNat 7 a

/-- R95: the sample is `low | (high << 8)` on zero-extended bytes, and its value is the signed high byte times 256 plus the
unsigned low byte. -/
def Obligations.SampleIsHighAboveLow : Prop :=
  ∀ low high : Byte,
    sample low high = low.setWidth 16 ||| (high.setWidth 16 <<< 8)
      ∧ toInt16 (sample low high) = 256 * high.toInt + low.toNat
      ∧ -32768 ≤ toInt16 (sample low high) ∧ toInt16 (sample low high) ≤ 32767

/-! ### Frames -/

/-- INIT, SELECT and DESELECT touch no data register, no flag, no sequencer counter; SELECT and DESELECT leave CFG, SCK and
SDO alone, INIT the trace (R122, R126, R128). -/
def Obligations.PinCommandsFrame : Prop :=
  ∀ (i : Instr) (s t : State), i = .select ∨ i = .deselect ∨ (∃ cfg, i = .init cfg) → exec i s = .next t →
    t.rxd = s.rxd ∧ t.axis = s.axis ∧ t.txsr = s.txsr ∧ t.rxsr = s.rxsr ∧ t.lob = s.lob ∧ t.stat = s.stat
      ∧ t.ai = s.ai ∧ t.hl = s.hl ∧ t.edge = s.edge ∧ t.seq = s.seq ∧ t.held = { s.held with cmdr := true }
      ∧ t.env = s.env ∧ t.hostData = s.hostData ∧ t.unwrittenReads = s.unwrittenReads
      ∧ ((∀ cfg, i ≠ .init cfg) → t.cfg = s.cfg ∧ t.sck = s.sck ∧ t.sdo = s.sdo)
      ∧ ((∃ cfg, i = .init cfg) → t.trace = s.trace)

/-- XFER, complete or waiting, touches neither CSN, CFG, AXIS, LOB, AI nor HL, no bit of STAT but TC, and of the trace only
what it appends (R130, R131). -/
def Obligations.XferFrame : Prop :=
  ∀ (d : Byte) (s t : State), exec (.xfer d) s = .next t →
    t.csn = s.csn ∧ t.cfg = s.cfg ∧ t.axis = s.axis ∧ t.lob = s.lob ∧ t.ai = s.ai ∧ t.hl = s.hl
      ∧ t.stat &&& 0xFFFE#16 = s.stat &&& 0xFFFE#16 ∧ t.held.axis = s.held.axis ∧ t.held.lob = s.held.lob
      ∧ t.hostData = s.hostData ∧ t.unwrittenReads = s.unwrittenReads
      ∧ t.env.program = s.env.program ∧ t.env.clockLater = s.env.clockLater
      ∧ (t.trace = s.trace ∨ ∃ r, t.trace = s.trace ++ [.send d r])

/-- RDREG, WRREG and the wire frames, complete or waiting, touch neither CFG, AXIS, LOB, AI nor HL, and no bit of STAT but TC;
the trace only grows (R184, R188, R206). -/
def Obligations.RegisterCommandFrame : Prop :=
  ∀ (i : Instr) (s t : State), runsTransaction i = true → (∀ b, i ≠ .rdaxes b) → exec i s = .next t →
    t.cfg = s.cfg ∧ t.axis = s.axis ∧ t.lob = s.lob ∧ t.ai = s.ai ∧ t.hl = s.hl
      ∧ t.stat &&& 0xFFFE#16 = s.stat &&& 0xFFFE#16 ∧ t.held.axis = s.held.axis ∧ t.held.lob = s.held.lob
      ∧ t.hostData = s.hostData ∧ t.unwrittenReads = s.unwrittenReads
      ∧ t.env.program = s.env.program ∧ t.env.clockLater = s.env.clockLater
      ∧ ∃ added, t.trace = s.trace ++ added

/-- RDAXES, complete or waiting, touches neither CFG nor any bit of STAT but TC; the trace only grows (R192, R206). -/
def Obligations.RdaxesFrame : Prop :=
  ∀ (base : Nat) (s t : State), exec (.rdaxes base) s = .next t →
    t.cfg = s.cfg ∧ t.stat &&& 0xFFFE#16 = s.stat &&& 0xFFFE#16 ∧ t.hostData = s.hostData
      ∧ t.unwrittenReads = s.unwrittenReads
      ∧ t.env.program = s.env.program ∧ t.env.clockLater = s.env.clockLater ∧ ∃ added, t.trace = s.trace ++ added
end

