-- ==== Sys2Proof/Laws/Accept.lean ====
section
/-! SUPPORT. What the acceptance checks answer (40_bus_driver R120, R121; 42_register_client R180; 60_exceptions R213). -/

namespace Sys2Proof.Machine

theorem ready_iff (s : State) : s.ready = true ↔ s.seq = .idle ∧ s.enabled = true ∧ s.csn = .driven true := by
  simp [State.ready, and_assoc]

theorem busy_iff (s : State) : s.busy = true ↔ s.seq ≠ .idle := by simp [State.busy]

/-- A command other than INIT answers a next state exactly when the block is idle and enabled (R120, R121). -/
theorem whenEnabled_next {s t : State} {k : State → State} :
    whenEnabled s k = .next t ↔ s.seq = .idle ∧ s.enabled = true ∧ k s = t := by
  unfold whenEnabled State.busy
  by_cases h : s.seq = .idle <;> cases s.enabled <;> simp [h]

/-- A framer command answers a next state exactly when the block is idle and enabled, CSN is 1 and its address in range
(R180, R69). -/
theorem whenFrameFree_next {s t : State} {inRange : Bool} {k : State → State} :
    whenFrameFree s inRange k = .next t ↔ s.ready = true ∧ inRange = true ∧ k s = t := by
  rw [ready_iff]
  unfold whenFrameFree State.busy
  by_cases h : s.seq = .idle <;> by_cases hc : s.csn = .driven true <;> cases s.enabled <;> cases inRange <;> simp [h, hc]

/-- With the frame free only the address decides (R180, R69). -/
theorem whenFrameFree_ready {s : State} (h : s.ready = true) (inRange : Bool) (k : State → State) :
    whenFrameFree s inRange k = if inRange then .next (k s) else .refused .addressRange := by
  obtain ⟨h1, h2, h3⟩ := (ready_iff s).mp h
  simp [whenFrameFree, State.busy, h1, h2, h3]

end Sys2Proof.Machine
end

