-- ==== Sys2Proof/Laws/Bits.lean ====
section
/-! SUPPORT. Bits of a byte set one by one (41_shifter_wire R154, R156), and the fields of CFG and STAT. -/

namespace Sys2Proof.Machine

theorem getLsbD_setBit (v : Byte) (p i : Nat) (b : Bool) (hp : p < 8) :
    (setBit v p b).getLsbD i = if i = p then b else v.getLsbD i := by
  unfold setBit
  by_cases hi : i < 8
  · interval_cases p <;> interval_cases i <;> cases b <;> simp
  · have : i ≠ p := by omega
    cases b <;> simp [this, BitVec.getLsbD_of_ge _ _ (Nat.le_of_not_lt hi)]

/-- The byte after the first `cells` bits of `b`, in the order of the cells, have been put into `v` (R156). -/
def fillBits (v b : Byte) (lsbFirst : Bool) (cells : Nat) : Byte :=
  (List.range cells).foldl (fun v k => setBit v (bitPos lsbFirst k) (b.getLsbD (bitPos lsbFirst k))) v

@[simp] theorem fillBits_zero (v b : Byte) (l : Bool) : fillBits v b l 0 = v := rfl

theorem fillBits_succ (v b : Byte) (l : Bool) (n : Nat) :
    fillBits v b l (n + 1) = setBit (fillBits v b l n) (bitPos l n) (b.getLsbD (bitPos l n)) := by
  simp [fillBits, List.range_succ]

theorem bitPos_lt {l : Bool} {k : Nat} (h : k < 8) : bitPos l k < 8 := by
  unfold bitPos; split <;> omega

/-- A bit that has been put in reads as the source's, any other as before. -/
theorem getLsbD_fillBits (v b : Byte) (l : Bool) (n i : Nat) (hn : n ≤ 8) (hi : i < 8) :
    (fillBits v b l n).getLsbD i = if bitPos l i < n then b.getLsbD i else v.getLsbD i := by
  induction n with
  | zero => simp
  | succ n ih =>
    rw [fillBits_succ, getLsbD_setBit _ _ _ _ (bitPos_lt (by omega)), ih (by omega)]
    have hb : i = bitPos l n ↔ bitPos l i = n := by unfold bitPos; split <;> omega
    by_cases h : bitPos l i = n
    · have hi' := hb.mpr h
      rw [if_pos hi', if_pos (by omega), hi']
    · have : i ≠ bitPos l n := fun hc => h (hb.mp hc)
      simp only [this, if_false]
      have : (bitPos l i < n + 1) ↔ (bitPos l i < n) := by omega
      simp [this]

/-- Eight cells carry the whole byte (R156). -/
theorem fillBits_eight (v b : Byte) (l : Bool) : fillBits v b l 8 = b := by
  apply BitVec.eq_of_getLsbD_eq
  intro i hi
  rw [getLsbD_fillBits _ _ _ _ _ (by omega) hi]
  simp [bitPos_lt hi]

theorem getLsbD_allOnes_byte {p : Nat} (h : p < 8) : (0xFF#8).getLsbD p = true := by
  interval_cases p <;> rfl

theorem fillBits_mono (v b : Byte) (l : Bool) (n : Nat) (hn : n ≤ 8) (i : Nat) (hi : i < 8) (h : bitPos l i < n) :
    (fillBits v b l n).getLsbD i = b.getLsbD i := by
  rw [getLsbD_fillBits _ _ _ _ _ hn hi, if_pos h]

/-- The flags of RXSR's bits fill up as the bits do (R156). -/
theorem sampledBits_eq (cpha l : Bool) (e : Nat) (he : e ≤ 16) :
    sampledBits cpha l e = fillBits 0#8 0xFF#8 l (if cpha then e / 2 else (e + 1) / 2) := by
  unfold sampledBits fillBits
  interval_cases e <;> cases cpha <;> cases l <;> rfl

/-- Flags filled over any earlier flags contain the bits sampled so far. -/
theorem fillBits_contains (h : Byte) (cpha l : Bool) (e : Nat) (he : e ≤ 16) :
    fillBits h 0xFF#8 l (if cpha then e / 2 else (e + 1) / 2) &&& sampledBits cpha l e = sampledBits cpha l e := by
  rw [sampledBits_eq _ _ _ he]
  apply BitVec.eq_of_getLsbD_eq
  intro i hi
  have hn : (if cpha then e / 2 else (e + 1) / 2) ≤ 8 := by split <;> omega
  rw [BitVec.getLsbD_and, getLsbD_fillBits _ _ _ _ _ hn hi, getLsbD_fillBits _ _ _ _ _ hn hi, getLsbD_allOnes_byte hi]
  by_cases hb : bitPos l i < (if cpha then e / 2 else (e + 1) / 2) <;> simp only [hb, if_true, if_false] <;> simp

/-- CFG after INIT's last two micro-steps (R122). -/
theorem configured_eq (cfg : BitVec 9) : cfg.setWidth 16 ||| enableBit = configured cfg := by
  apply BitVec.eq_of_getLsbD_eq
  intro i hi
  simp only [configured, enableBit, BitVec.getLsbD_or, BitVec.getLsbD_append, BitVec.getLsbD_setWidth]
  interval_cases i <;> simp (decide := true)

end Sys2Proof.Machine
end

