-- ==== Sys2Proof/Laws/State.lean ====
section
/-! SUPPORT. One lemma per field of State per named update, so that no later proof unfolds an update. -/

namespace Sys2Proof.Machine

variable (s : State)

/-! ### driveCsn -/

@[simp] theorem State.driveCsn_csn (b : Bool) : (s.driveCsn b).csn = .driven b := rfl
@[simp] theorem State.driveCsn_sck (b : Bool) : (s.driveCsn b).sck = s.sck := rfl
@[simp] theorem State.driveCsn_sdo (b : Bool) : (s.driveCsn b).sdo = s.sdo := rfl
@[simp] theorem State.driveCsn_rxd (b : Bool) : (s.driveCsn b).rxd = s.rxd := rfl
@[simp] theorem State.driveCsn_axis (b : Bool) : (s.driveCsn b).axis = s.axis := rfl
@[simp] theorem State.driveCsn_txsr (b : Bool) : (s.driveCsn b).txsr = s.txsr := rfl
@[simp] theorem State.driveCsn_rxsr (b : Bool) : (s.driveCsn b).rxsr = s.rxsr := rfl
@[simp] theorem State.driveCsn_lob (b : Bool) : (s.driveCsn b).lob = s.lob := rfl
@[simp] theorem State.driveCsn_cmdr (b : Bool) : (s.driveCsn b).cmdr = s.cmdr := rfl
@[simp] theorem State.driveCsn_cfg (b : Bool) : (s.driveCsn b).cfg = s.cfg := rfl
@[simp] theorem State.driveCsn_stat (b : Bool) : (s.driveCsn b).stat = s.stat := rfl
@[simp] theorem State.driveCsn_seq (b : Bool) : (s.driveCsn b).seq = s.seq := rfl
@[simp] theorem State.driveCsn_ai (b : Bool) : (s.driveCsn b).ai = s.ai := rfl
@[simp] theorem State.driveCsn_hl (b : Bool) : (s.driveCsn b).hl = s.hl := rfl
@[simp] theorem State.driveCsn_edge (b : Bool) : (s.driveCsn b).edge = s.edge := rfl
@[simp] theorem State.driveCsn_trace (b : Bool) : (s.driveCsn b).trace = s.trace := rfl
@[simp] theorem State.driveCsn_held (b : Bool) : (s.driveCsn b).held = s.held := rfl
@[simp] theorem State.driveCsn_shifting (b : Bool) : (s.driveCsn b).shifting = s.shifting := rfl
@[simp] theorem State.driveCsn_env (b : Bool) : (s.driveCsn b).env = s.env := rfl
@[simp] theorem State.driveCsn_hostData (b : Bool) : (s.driveCsn b).hostData = s.hostData := rfl
@[simp] theorem State.driveCsn_unwrittenReads (b : Bool) : (s.driveCsn b).unwrittenReads = s.unwrittenReads := rfl

/-! ### driveSck -/

@[simp] theorem State.driveSck_csn (b : Bool) : (s.driveSck b).csn = s.csn := rfl
@[simp] theorem State.driveSck_sck (b : Bool) : (s.driveSck b).sck = .driven b := rfl
@[simp] theorem State.driveSck_sdo (b : Bool) : (s.driveSck b).sdo = s.sdo := rfl
@[simp] theorem State.driveSck_rxd (b : Bool) : (s.driveSck b).rxd = s.rxd := rfl
@[simp] theorem State.driveSck_axis (b : Bool) : (s.driveSck b).axis = s.axis := rfl
@[simp] theorem State.driveSck_txsr (b : Bool) : (s.driveSck b).txsr = s.txsr := rfl
@[simp] theorem State.driveSck_rxsr (b : Bool) : (s.driveSck b).rxsr = s.rxsr := rfl
@[simp] theorem State.driveSck_lob (b : Bool) : (s.driveSck b).lob = s.lob := rfl
@[simp] theorem State.driveSck_cmdr (b : Bool) : (s.driveSck b).cmdr = s.cmdr := rfl
@[simp] theorem State.driveSck_cfg (b : Bool) : (s.driveSck b).cfg = s.cfg := rfl
@[simp] theorem State.driveSck_stat (b : Bool) : (s.driveSck b).stat = s.stat := rfl
@[simp] theorem State.driveSck_seq (b : Bool) : (s.driveSck b).seq = s.seq := rfl
@[simp] theorem State.driveSck_ai (b : Bool) : (s.driveSck b).ai = s.ai := rfl
@[simp] theorem State.driveSck_hl (b : Bool) : (s.driveSck b).hl = s.hl := rfl
@[simp] theorem State.driveSck_edge (b : Bool) : (s.driveSck b).edge = s.edge := rfl
@[simp] theorem State.driveSck_trace (b : Bool) : (s.driveSck b).trace = s.trace := rfl
@[simp] theorem State.driveSck_held (b : Bool) : (s.driveSck b).held = s.held := rfl
@[simp] theorem State.driveSck_shifting (b : Bool) : (s.driveSck b).shifting = s.shifting := rfl
@[simp] theorem State.driveSck_env (b : Bool) : (s.driveSck b).env = s.env := rfl
@[simp] theorem State.driveSck_hostData (b : Bool) : (s.driveSck b).hostData = s.hostData := rfl
@[simp] theorem State.driveSck_unwrittenReads (b : Bool) : (s.driveSck b).unwrittenReads = s.unwrittenReads := rfl

/-! ### driveSdo -/

@[simp] theorem State.driveSdo_csn (b : Bool) : (s.driveSdo b).csn = s.csn := rfl
@[simp] theorem State.driveSdo_sck (b : Bool) : (s.driveSdo b).sck = s.sck := rfl
@[simp] theorem State.driveSdo_sdo (b : Bool) : (s.driveSdo b).sdo = .driven b := rfl
@[simp] theorem State.driveSdo_rxd (b : Bool) : (s.driveSdo b).rxd = s.rxd := rfl
@[simp] theorem State.driveSdo_axis (b : Bool) : (s.driveSdo b).axis = s.axis := rfl
@[simp] theorem State.driveSdo_txsr (b : Bool) : (s.driveSdo b).txsr = s.txsr := rfl
@[simp] theorem State.driveSdo_rxsr (b : Bool) : (s.driveSdo b).rxsr = s.rxsr := rfl
@[simp] theorem State.driveSdo_lob (b : Bool) : (s.driveSdo b).lob = s.lob := rfl
@[simp] theorem State.driveSdo_cmdr (b : Bool) : (s.driveSdo b).cmdr = s.cmdr := rfl
@[simp] theorem State.driveSdo_cfg (b : Bool) : (s.driveSdo b).cfg = s.cfg := rfl
@[simp] theorem State.driveSdo_stat (b : Bool) : (s.driveSdo b).stat = s.stat := rfl
@[simp] theorem State.driveSdo_seq (b : Bool) : (s.driveSdo b).seq = s.seq := rfl
@[simp] theorem State.driveSdo_ai (b : Bool) : (s.driveSdo b).ai = s.ai := rfl
@[simp] theorem State.driveSdo_hl (b : Bool) : (s.driveSdo b).hl = s.hl := rfl
@[simp] theorem State.driveSdo_edge (b : Bool) : (s.driveSdo b).edge = s.edge := rfl
@[simp] theorem State.driveSdo_trace (b : Bool) : (s.driveSdo b).trace = s.trace := rfl
@[simp] theorem State.driveSdo_held (b : Bool) : (s.driveSdo b).held = s.held := rfl
@[simp] theorem State.driveSdo_shifting (b : Bool) : (s.driveSdo b).shifting = s.shifting := rfl
@[simp] theorem State.driveSdo_env (b : Bool) : (s.driveSdo b).env = s.env := rfl
@[simp] theorem State.driveSdo_hostData (b : Bool) : (s.driveSdo b).hostData = s.hostData := rfl
@[simp] theorem State.driveSdo_unwrittenReads (b : Bool) : (s.driveSdo b).unwrittenReads = s.unwrittenReads := rfl

/-! ### emit -/

@[simp] theorem State.emit_csn (ev : BusEvent) : (s.emit ev).csn = s.csn := rfl
@[simp] theorem State.emit_sck (ev : BusEvent) : (s.emit ev).sck = s.sck := rfl
@[simp] theorem State.emit_sdo (ev : BusEvent) : (s.emit ev).sdo = s.sdo := rfl
@[simp] theorem State.emit_rxd (ev : BusEvent) : (s.emit ev).rxd = s.rxd := rfl
@[simp] theorem State.emit_axis (ev : BusEvent) : (s.emit ev).axis = s.axis := rfl
@[simp] theorem State.emit_txsr (ev : BusEvent) : (s.emit ev).txsr = s.txsr := rfl
@[simp] theorem State.emit_rxsr (ev : BusEvent) : (s.emit ev).rxsr = s.rxsr := rfl
@[simp] theorem State.emit_lob (ev : BusEvent) : (s.emit ev).lob = s.lob := rfl
@[simp] theorem State.emit_cmdr (ev : BusEvent) : (s.emit ev).cmdr = s.cmdr := rfl
@[simp] theorem State.emit_cfg (ev : BusEvent) : (s.emit ev).cfg = s.cfg := rfl
@[simp] theorem State.emit_stat (ev : BusEvent) : (s.emit ev).stat = s.stat := rfl
@[simp] theorem State.emit_seq (ev : BusEvent) : (s.emit ev).seq = s.seq := rfl
@[simp] theorem State.emit_ai (ev : BusEvent) : (s.emit ev).ai = s.ai := rfl
@[simp] theorem State.emit_hl (ev : BusEvent) : (s.emit ev).hl = s.hl := rfl
@[simp] theorem State.emit_edge (ev : BusEvent) : (s.emit ev).edge = s.edge := rfl
@[simp] theorem State.emit_trace (ev : BusEvent) : (s.emit ev).trace = s.trace ++ [ev] := rfl
@[simp] theorem State.emit_held (ev : BusEvent) : (s.emit ev).held = s.held := rfl
@[simp] theorem State.emit_shifting (ev : BusEvent) : (s.emit ev).shifting = s.shifting := rfl
@[simp] theorem State.emit_env (ev : BusEvent) : (s.emit ev).env = s.env := rfl
@[simp] theorem State.emit_hostData (ev : BusEvent) : (s.emit ev).hostData = s.hostData := rfl
@[simp] theorem State.emit_unwrittenReads (ev : BusEvent) : (s.emit ev).unwrittenReads = s.unwrittenReads := rfl

/-! ### clearTc -/

@[simp] theorem State.clearTc_csn : s.clearTc.csn = s.csn := rfl
@[simp] theorem State.clearTc_sck : s.clearTc.sck = s.sck := rfl
@[simp] theorem State.clearTc_sdo : s.clearTc.sdo = s.sdo := rfl
@[simp] theorem State.clearTc_rxd : s.clearTc.rxd = s.rxd := rfl
@[simp] theorem State.clearTc_axis : s.clearTc.axis = s.axis := rfl
@[simp] theorem State.clearTc_txsr : s.clearTc.txsr = s.txsr := rfl
@[simp] theorem State.clearTc_rxsr : s.clearTc.rxsr = s.rxsr := rfl
@[simp] theorem State.clearTc_lob : s.clearTc.lob = s.lob := rfl
@[simp] theorem State.clearTc_cmdr : s.clearTc.cmdr = s.cmdr := rfl
@[simp] theorem State.clearTc_cfg : s.clearTc.cfg = s.cfg := rfl
@[simp] theorem State.clearTc_stat : s.clearTc.stat = s.stat &&& ~~~tcMask := rfl
@[simp] theorem State.clearTc_seq : s.clearTc.seq = s.seq := rfl
@[simp] theorem State.clearTc_ai : s.clearTc.ai = s.ai := rfl
@[simp] theorem State.clearTc_hl : s.clearTc.hl = s.hl := rfl
@[simp] theorem State.clearTc_edge : s.clearTc.edge = s.edge := rfl
@[simp] theorem State.clearTc_trace : s.clearTc.trace = s.trace := rfl
@[simp] theorem State.clearTc_held : s.clearTc.held = s.held := rfl
@[simp] theorem State.clearTc_shifting : s.clearTc.shifting = s.shifting := rfl
@[simp] theorem State.clearTc_env : s.clearTc.env = s.env := rfl
@[simp] theorem State.clearTc_hostData : s.clearTc.hostData = s.hostData := rfl
@[simp] theorem State.clearTc_unwrittenReads : s.clearTc.unwrittenReads = s.unwrittenReads := rfl

/-! ### setTc -/

@[simp] theorem State.setTc_csn : s.setTc.csn = s.csn := rfl
@[simp] theorem State.setTc_sck : s.setTc.sck = s.sck := rfl
@[simp] theorem State.setTc_sdo : s.setTc.sdo = s.sdo := rfl
@[simp] theorem State.setTc_rxd : s.setTc.rxd = s.rxd := rfl
@[simp] theorem State.setTc_axis : s.setTc.axis = s.axis := rfl
@[simp] theorem State.setTc_txsr : s.setTc.txsr = s.txsr := rfl
@[simp] theorem State.setTc_rxsr : s.setTc.rxsr = s.rxsr := rfl
@[simp] theorem State.setTc_lob : s.setTc.lob = s.lob := rfl
@[simp] theorem State.setTc_cmdr : s.setTc.cmdr = s.cmdr := rfl
@[simp] theorem State.setTc_cfg : s.setTc.cfg = s.cfg := rfl
@[simp] theorem State.setTc_stat : s.setTc.stat = s.stat ||| tcMask := rfl
@[simp] theorem State.setTc_seq : s.setTc.seq = s.seq := rfl
@[simp] theorem State.setTc_ai : s.setTc.ai = s.ai := rfl
@[simp] theorem State.setTc_hl : s.setTc.hl = s.hl := rfl
@[simp] theorem State.setTc_edge : s.setTc.edge = s.edge := rfl
@[simp] theorem State.setTc_trace : s.setTc.trace = s.trace := rfl
@[simp] theorem State.setTc_held : s.setTc.held = s.held := rfl
@[simp] theorem State.setTc_shifting : s.setTc.shifting = s.shifting := rfl
@[simp] theorem State.setTc_env : s.setTc.env = s.env := rfl
@[simp] theorem State.setTc_hostData : s.setTc.hostData = s.hostData := rfl
@[simp] theorem State.setTc_unwrittenReads : s.setTc.unwrittenReads = s.unwrittenReads := rfl

/-! ### accept -/

@[simp] theorem State.accept_csn (w : CommandWord) (q : Seq) : (s.accept w q).csn = s.csn := rfl
@[simp] theorem State.accept_sck (w : CommandWord) (q : Seq) : (s.accept w q).sck = s.sck := rfl
@[simp] theorem State.accept_sdo (w : CommandWord) (q : Seq) : (s.accept w q).sdo = s.sdo := rfl
@[simp] theorem State.accept_rxd (w : CommandWord) (q : Seq) : (s.accept w q).rxd = s.rxd := rfl
@[simp] theorem State.accept_axis (w : CommandWord) (q : Seq) : (s.accept w q).axis = s.axis := rfl
@[simp] theorem State.accept_txsr (w : CommandWord) (q : Seq) : (s.accept w q).txsr = s.txsr := rfl
@[simp] theorem State.accept_rxsr (w : CommandWord) (q : Seq) : (s.accept w q).rxsr = s.rxsr := rfl
@[simp] theorem State.accept_lob (w : CommandWord) (q : Seq) : (s.accept w q).lob = s.lob := rfl
@[simp] theorem State.accept_cmdr (w : CommandWord) (q : Seq) : (s.accept w q).cmdr = w := rfl
@[simp] theorem State.accept_cfg (w : CommandWord) (q : Seq) : (s.accept w q).cfg = s.cfg := rfl
@[simp] theorem State.accept_stat (w : CommandWord) (q : Seq) : (s.accept w q).stat = s.stat := rfl
@[simp] theorem State.accept_seq (w : CommandWord) (q : Seq) : (s.accept w q).seq = q := rfl
@[simp] theorem State.accept_ai (w : CommandWord) (q : Seq) : (s.accept w q).ai = s.ai := rfl
@[simp] theorem State.accept_hl (w : CommandWord) (q : Seq) : (s.accept w q).hl = s.hl := rfl
@[simp] theorem State.accept_edge (w : CommandWord) (q : Seq) : (s.accept w q).edge = s.edge := rfl
@[simp] theorem State.accept_trace (w : CommandWord) (q : Seq) : (s.accept w q).trace = s.trace := rfl
@[simp] theorem State.accept_held (w : CommandWord) (q : Seq) : (s.accept w q).held = { s.held with cmdr := true } := rfl
@[simp] theorem State.accept_shifting (w : CommandWord) (q : Seq) : (s.accept w q).shifting = false := rfl
@[simp] theorem State.accept_env (w : CommandWord) (q : Seq) : (s.accept w q).env = s.env := rfl
@[simp] theorem State.accept_hostData (w : CommandWord) (q : Seq) : (s.accept w q).hostData = s.hostData := rfl
@[simp] theorem State.accept_unwrittenReads (w : CommandWord) (q : Seq) : (s.accept w q).unwrittenReads = s.unwrittenReads := rfl

/-! ### retire -/

@[simp] theorem State.retire_csn : s.retire.csn = s.csn := rfl
@[simp] theorem State.retire_sck : s.retire.sck = s.sck := rfl
@[simp] theorem State.retire_sdo : s.retire.sdo = s.sdo := rfl
@[simp] theorem State.retire_rxd : s.retire.rxd = s.rxd := rfl
@[simp] theorem State.retire_axis : s.retire.axis = s.axis := rfl
@[simp] theorem State.retire_txsr : s.retire.txsr = s.txsr := rfl
@[simp] theorem State.retire_rxsr : s.retire.rxsr = s.rxsr := rfl
@[simp] theorem State.retire_lob : s.retire.lob = s.lob := rfl
@[simp] theorem State.retire_cmdr : s.retire.cmdr = s.cmdr := rfl
@[simp] theorem State.retire_cfg : s.retire.cfg = s.cfg := rfl
@[simp] theorem State.retire_stat : s.retire.stat = s.stat := rfl
@[simp] theorem State.retire_seq : s.retire.seq = .idle := rfl
@[simp] theorem State.retire_ai : s.retire.ai = s.ai := rfl
@[simp] theorem State.retire_hl : s.retire.hl = s.hl := rfl
@[simp] theorem State.retire_edge : s.retire.edge = s.edge := rfl
@[simp] theorem State.retire_trace : s.retire.trace = s.trace := rfl
@[simp] theorem State.retire_held : s.retire.held = s.held := rfl
@[simp] theorem State.retire_shifting : s.retire.shifting = s.shifting := rfl
@[simp] theorem State.retire_env : s.retire.env = s.env := rfl
@[simp] theorem State.retire_hostData : s.retire.hostData = s.hostData := rfl
@[simp] theorem State.retire_unwrittenReads : s.retire.unwrittenReads = s.unwrittenReads := rfl

/-! ### goTo -/

@[simp] theorem State.goTo_csn (q : Seq) : (s.goTo q).csn = s.csn := rfl
@[simp] theorem State.goTo_sck (q : Seq) : (s.goTo q).sck = s.sck := rfl
@[simp] theorem State.goTo_sdo (q : Seq) : (s.goTo q).sdo = s.sdo := rfl
@[simp] theorem State.goTo_rxd (q : Seq) : (s.goTo q).rxd = s.rxd := rfl
@[simp] theorem State.goTo_axis (q : Seq) : (s.goTo q).axis = s.axis := rfl
@[simp] theorem State.goTo_txsr (q : Seq) : (s.goTo q).txsr = s.txsr := rfl
@[simp] theorem State.goTo_rxsr (q : Seq) : (s.goTo q).rxsr = s.rxsr := rfl
@[simp] theorem State.goTo_lob (q : Seq) : (s.goTo q).lob = s.lob := rfl
@[simp] theorem State.goTo_cmdr (q : Seq) : (s.goTo q).cmdr = s.cmdr := rfl
@[simp] theorem State.goTo_cfg (q : Seq) : (s.goTo q).cfg = s.cfg := rfl
@[simp] theorem State.goTo_stat (q : Seq) : (s.goTo q).stat = s.stat := rfl
@[simp] theorem State.goTo_seq (q : Seq) : (s.goTo q).seq = q := rfl
@[simp] theorem State.goTo_ai (q : Seq) : (s.goTo q).ai = s.ai := rfl
@[simp] theorem State.goTo_hl (q : Seq) : (s.goTo q).hl = s.hl := rfl
@[simp] theorem State.goTo_edge (q : Seq) : (s.goTo q).edge = s.edge := rfl
@[simp] theorem State.goTo_trace (q : Seq) : (s.goTo q).trace = s.trace := rfl
@[simp] theorem State.goTo_held (q : Seq) : (s.goTo q).held = s.held := rfl
@[simp] theorem State.goTo_shifting (q : Seq) : (s.goTo q).shifting = s.shifting := rfl
@[simp] theorem State.goTo_env (q : Seq) : (s.goTo q).env = s.env := rfl
@[simp] theorem State.goTo_hostData (q : Seq) : (s.goTo q).hostData = s.hostData := rfl
@[simp] theorem State.goTo_unwrittenReads (q : Seq) : (s.goTo q).unwrittenReads = s.unwrittenReads := rfl

/-! ### recordUnwritten -/

@[simp] theorem State.recordUnwritten_csn : s.recordUnwritten.csn = s.csn := rfl
@[simp] theorem State.recordUnwritten_sck : s.recordUnwritten.sck = s.sck := rfl
@[simp] theorem State.recordUnwritten_sdo : s.recordUnwritten.sdo = s.sdo := rfl
@[simp] theorem State.recordUnwritten_rxd : s.recordUnwritten.rxd = s.rxd := rfl
@[simp] theorem State.recordUnwritten_axis : s.recordUnwritten.axis = s.axis := rfl
@[simp] theorem State.recordUnwritten_txsr : s.recordUnwritten.txsr = s.txsr := rfl
@[simp] theorem State.recordUnwritten_rxsr : s.recordUnwritten.rxsr = s.rxsr := rfl
@[simp] theorem State.recordUnwritten_lob : s.recordUnwritten.lob = s.lob := rfl
@[simp] theorem State.recordUnwritten_cmdr : s.recordUnwritten.cmdr = s.cmdr := rfl
@[simp] theorem State.recordUnwritten_cfg : s.recordUnwritten.cfg = s.cfg := rfl
@[simp] theorem State.recordUnwritten_stat : s.recordUnwritten.stat = s.stat := rfl
@[simp] theorem State.recordUnwritten_seq : s.recordUnwritten.seq = s.seq := rfl
@[simp] theorem State.recordUnwritten_ai : s.recordUnwritten.ai = s.ai := rfl
@[simp] theorem State.recordUnwritten_hl : s.recordUnwritten.hl = s.hl := rfl
@[simp] theorem State.recordUnwritten_edge : s.recordUnwritten.edge = s.edge := rfl
@[simp] theorem State.recordUnwritten_trace : s.recordUnwritten.trace = s.trace := rfl
@[simp] theorem State.recordUnwritten_held : s.recordUnwritten.held = s.held := rfl
@[simp] theorem State.recordUnwritten_shifting : s.recordUnwritten.shifting = s.shifting := rfl
@[simp] theorem State.recordUnwritten_env : s.recordUnwritten.env = s.env := rfl
@[simp] theorem State.recordUnwritten_hostData : s.recordUnwritten.hostData = s.hostData := rfl
@[simp] theorem State.recordUnwritten_unwrittenReads : s.recordUnwritten.unwrittenReads = s.unwrittenReads + 1 := rfl

/-! ### fillUnwritten -/

@[simp] theorem State.fillUnwritten_csn : s.fillUnwritten.csn = s.csn := rfl
@[simp] theorem State.fillUnwritten_sck : s.fillUnwritten.sck = s.sck := rfl
@[simp] theorem State.fillUnwritten_sdo : s.fillUnwritten.sdo = s.sdo := rfl
@[simp] theorem State.fillUnwritten_rxd : s.fillUnwritten.rxd = s.rxd := rfl
@[simp] theorem State.fillUnwritten_axis : s.fillUnwritten.axis = s.axis := rfl
@[simp] theorem State.fillUnwritten_cfg : s.fillUnwritten.cfg = s.cfg := rfl
@[simp] theorem State.fillUnwritten_stat : s.fillUnwritten.stat = s.stat := rfl
@[simp] theorem State.fillUnwritten_seq : s.fillUnwritten.seq = s.seq := rfl
@[simp] theorem State.fillUnwritten_ai : s.fillUnwritten.ai = s.ai := rfl
@[simp] theorem State.fillUnwritten_hl : s.fillUnwritten.hl = s.hl := rfl
@[simp] theorem State.fillUnwritten_edge : s.fillUnwritten.edge = s.edge := rfl
@[simp] theorem State.fillUnwritten_trace : s.fillUnwritten.trace = s.trace := rfl
@[simp] theorem State.fillUnwritten_held : s.fillUnwritten.held = s.held := rfl
@[simp] theorem State.fillUnwritten_shifting : s.fillUnwritten.shifting = s.shifting := rfl
@[simp] theorem State.fillUnwritten_env : s.fillUnwritten.env = s.env := rfl
@[simp] theorem State.fillUnwritten_hostData : s.fillUnwritten.hostData = s.hostData := rfl
@[simp] theorem State.fillUnwritten_unwrittenReads : s.fillUnwritten.unwrittenReads = s.unwrittenReads := rfl

/-! ### withProgram -/

@[simp] theorem State.withProgram_csn (r : List HostRequest) : (s.withProgram r).csn = s.csn := rfl
@[simp] theorem State.withProgram_sck (r : List HostRequest) : (s.withProgram r).sck = s.sck := rfl
@[simp] theorem State.withProgram_sdo (r : List HostRequest) : (s.withProgram r).sdo = s.sdo := rfl
@[simp] theorem State.withProgram_rxd (r : List HostRequest) : (s.withProgram r).rxd = s.rxd := rfl
@[simp] theorem State.withProgram_axis (r : List HostRequest) : (s.withProgram r).axis = s.axis := rfl
@[simp] theorem State.withProgram_txsr (r : List HostRequest) : (s.withProgram r).txsr = s.txsr := rfl
@[simp] theorem State.withProgram_rxsr (r : List HostRequest) : (s.withProgram r).rxsr = s.rxsr := rfl
@[simp] theorem State.withProgram_lob (r : List HostRequest) : (s.withProgram r).lob = s.lob := rfl
@[simp] theorem State.withProgram_cmdr (r : List HostRequest) : (s.withProgram r).cmdr = s.cmdr := rfl
@[simp] theorem State.withProgram_cfg (r : List HostRequest) : (s.withProgram r).cfg = s.cfg := rfl
@[simp] theorem State.withProgram_stat (r : List HostRequest) : (s.withProgram r).stat = s.stat := rfl
@[simp] theorem State.withProgram_seq (r : List HostRequest) : (s.withProgram r).seq = s.seq := rfl
@[simp] theorem State.withProgram_ai (r : List HostRequest) : (s.withProgram r).ai = s.ai := rfl
@[simp] theorem State.withProgram_hl (r : List HostRequest) : (s.withProgram r).hl = s.hl := rfl
@[simp] theorem State.withProgram_edge (r : List HostRequest) : (s.withProgram r).edge = s.edge := rfl
@[simp] theorem State.withProgram_trace (r : List HostRequest) : (s.withProgram r).trace = s.trace := rfl
@[simp] theorem State.withProgram_held (r : List HostRequest) : (s.withProgram r).held = s.held := rfl
@[simp] theorem State.withProgram_shifting (r : List HostRequest) : (s.withProgram r).shifting = s.shifting := rfl
@[simp] theorem State.withProgram_env (r : List HostRequest) : (s.withProgram r).env = { s.env with program := r } := rfl
@[simp] theorem State.withProgram_hostData (r : List HostRequest) : (s.withProgram r).hostData = s.hostData := rfl
@[simp] theorem State.withProgram_unwrittenReads (r : List HostRequest) : (s.withProgram r).unwrittenReads = s.unwrittenReads := rfl

/-! ### The environment -/

variable (e : Env)

@[simp] theorem Env.answered_answers : e.answered.answers = e.answers.tail := rfl
@[simp] theorem Env.answered_draws : e.answered.draws = e.draws + 1 := rfl
@[simp] theorem Env.answered_clock : e.answered.clock = e.clock := rfl
@[simp] theorem Env.answered_clockLater : e.answered.clockLater = e.clockLater := rfl
@[simp] theorem Env.answered_program : e.answered.program = e.program := rfl
@[simp] theorem Env.tick_answers : e.tick.answers = e.answers := rfl
@[simp] theorem Env.tick_draws : e.tick.draws = e.draws := rfl
@[simp] theorem Env.tick_clock : e.tick.clock = e.clock.map (· - 1) := rfl
@[simp] theorem Env.tick_clockLater : e.tick.clockLater = e.clockLater := rfl
@[simp] theorem Env.tick_program : e.tick.program = e.program := rfl

end Sys2Proof.Machine
end

