-- ==== Sys2Proof/Laws/Transfer.lean ====
section
/-! SUPPORT. Everything a byte transfer can do (41_shifter_wire R160, R162): the state after any number of its edges, the state
when it is complete, and the state when the clock stops in it. -/

namespace Sys2Proof.Machine

/-! ### Derived fields under the updates -/

section
variable (s : State)

@[simp] theorem State.driveSck_enabled (b : Bool) : (s.driveSck b).enabled = s.enabled := rfl
@[simp] theorem State.driveSck_cpol (b : Bool) : (s.driveSck b).cpol = s.cpol := rfl
@[simp] theorem State.driveSck_cpha (b : Bool) : (s.driveSck b).cpha = s.cpha := rfl
@[simp] theorem State.driveSck_pos (b : Bool) (k : Nat) : (s.driveSck b).pos k = s.pos k := rfl
@[simp] theorem State.accept_enabled (w : CommandWord) (q : Seq) : (s.accept w q).enabled = s.enabled := rfl
@[simp] theorem State.accept_cpol (w : CommandWord) (q : Seq) : (s.accept w q).cpol = s.cpol := rfl
@[simp] theorem State.accept_pos (w : CommandWord) (q : Seq) (k : Nat) : (s.accept w q).pos k = s.pos k := rfl
@[simp] theorem State.driveCsn_enabled (b : Bool) : (s.driveCsn b).enabled = s.enabled := rfl
@[simp] theorem State.emit_enabled (ev : BusEvent) : (s.emit ev).enabled = s.enabled := rfl

end

/-! ### The clock -/

theorem Env.clockCovers_none {e : Env} (h : e.clock = none) (n : Nat) : e.clockCovers n = true := by
  simp [Env.clockCovers, h]

theorem Env.clockCovers_some {e : Env} {m : Nat} (h : e.clock = some m) (n : Nat) :
    e.clockCovers n = true ↔ n ≤ m := by
  simp [Env.clockCovers, h]

/-! ### One edge -/

/-- `s` with the six things an edge step can write: the levels of SCK and SDO, RXSR and the flags of its bits, EDGE, the
clock. -/
def inTransfer (s : State) (sck sdo : Pin) (r h : Byte) (n : Nat) (c : Option Nat) : State :=
  { s with sck := sck, sdo := sdo, rxsr := r, held := { s.held with rxsr := h }, edge := n, env := { s.env with clock := c } }

section
variable {s : State} {sck sdo : Pin} {r h : Byte} {n : Nat} {c : Option Nat}

theorem edgeEnabled_inTransfer (hs : s.shifting = true) (he : s.enabled = true) (hc : c ≠ some 0) (hn : n < 16) :
    (inTransfer s sck sdo r h n c).edgeEnabled = true := by
  have h1 : (inTransfer s sck sdo r h n c).enabled = true := he
  simp only [State.edgeEnabled, h1, Env.clockRunning]
  simp [inTransfer, hs, hc, hn]

/-- An edge step that is not enabled changes nothing. -/
theorem edgeStep_blocked {s : State} (h : s.edgeEnabled = false) : s.edgeStep = s := by simp [State.edgeStep, h]

/-- A leading edge with CPHA = 0 samples (R160). -/
theorem edgeStep_leading_sample (he : (inTransfer s sck sdo r h n c).edgeEnabled = true) (hn : n % 2 = 0)
    (hp : s.cpha = false) :
    (inTransfer s sck sdo r h n c).edgeStep = inTransfer s (.driven (!s.cpol)) sdo
      (setBit r (s.pos (n / 2)) (s.incoming.getLsbD (s.pos (n / 2)))) (setBit h (s.pos (n / 2)) true) (n + 1)
      (c.map (· - 1)) := by
  unfold State.edgeStep State.edgePins
  rw [if_pos he, if_pos (by exact hn)]
  unfold State.leadingEdge
  rw [if_neg (by rw [show (inTransfer s sck sdo r h n c).cpha = s.cpha from rfl, hp]; simp)]
  rfl

/-- A leading edge with CPHA = 1 changes SDO (R160). -/
theorem edgeStep_leading_shift (he : (inTransfer s sck sdo r h n c).edgeEnabled = true) (hn : n % 2 = 0)
    (hp : s.cpha = true) :
    (inTransfer s sck sdo r h n c).edgeStep = inTransfer s (.driven (!s.cpol))
      (.driven (s.txsr.getLsbD (s.pos (n / 2)))) r h (n + 1) (c.map (· - 1)) := by
  unfold State.edgeStep State.edgePins
  rw [if_pos he, if_pos (by exact hn)]
  unfold State.leadingEdge
  rw [if_pos (by exact hp)]
  rfl

/-- A trailing edge with CPHA = 1 samples (R160). -/
theorem edgeStep_trailing_sample (he : (inTransfer s sck sdo r h n c).edgeEnabled = true) (hn : n % 2 = 1)
    (hp : s.cpha = true) :
    (inTransfer s sck sdo r h n c).edgeStep = inTransfer s (.driven s.cpol) sdo
      (setBit r (s.pos (n / 2)) (s.incoming.getLsbD (s.pos (n / 2)))) (setBit h (s.pos (n / 2)) true) (n + 1)
      (c.map (· - 1)) := by
  unfold State.edgeStep State.edgePins
  rw [if_pos he, if_neg (by rw [show (inTransfer s sck sdo r h n c).edge = n from rfl]; omega)]
  unfold State.trailingEdge
  rw [if_pos (by exact hp)]
  rfl

/-- A trailing edge with CPHA = 0 changes SDO to the next cell's bit; after the last cell SDO holds (R160). -/
theorem edgeStep_trailing_shift (he : (inTransfer s sck sdo r h n c).edgeEnabled = true) (hn : n % 2 = 1)
    (hp : s.cpha = false) :
    (inTransfer s sck sdo r h n c).edgeStep = inTransfer s (.driven s.cpol)
      (if n / 2 < 7 then .driven (s.txsr.getLsbD (s.pos (n / 2 + 1))) else sdo) r h (n + 1) (c.map (· - 1)) := by
  unfold State.edgeStep State.edgePins
  rw [if_pos he, if_neg (by rw [show (inTransfer s sck sdo r h n c).edge = n from rfl]; omega)]
  unfold State.trailingEdge
  rw [if_neg (by rw [show (inTransfer s sck sdo r h n c).cpha = s.cpha from rfl, hp]; simp)]
  rw [show (inTransfer s sck sdo r h n c).edge = n from rfl]
  split <;> rfl

end

/-! ### A run of edges -/

/-- How many bits have been sampled when EDGE = n (R160). -/
def cellsDone (cpha : Bool) (n : Nat) : Nat := if cpha then n / 2 else (n + 1) / 2

/-- SCK when EDGE = n, in a transfer that began in `s` (R152). -/
def sckAfter (s : State) (n : Nat) : Pin := if n = 0 then s.sck else .driven (s.cpol != decide (n % 2 = 1))

/-- SDO when EDGE = n, in a transfer that began in `s` (R160, R164). -/
def sdoAfter (s : State) (n : Nat) : Pin :=
  if n < (if s.cpha then 1 else 2) then s.sdo
  else .driven (s.txsr.getLsbD (s.pos (if s.cpha then (n - 1) / 2 else min (n / 2) 7)))

/-- The state after n edges of a transfer that began in `s`, with c the clock that is left (R160). -/
def afterEdges (s : State) (n : Nat) (c : Option Nat) : State :=
  inTransfer s (sckAfter s n) (sdoAfter s n) (fillBits s.rxsr s.incoming s.lsbFirst (cellsDone s.cpha n))
    (fillBits s.held.rxsr 0xFF#8 s.lsbFirst (cellsDone s.cpha n)) n c

theorem afterEdges_zero {s : State} (h : s.edge = 0) : afterEdges s 0 s.env.clock = s := by
  have h1 : cellsDone s.cpha 0 = 0 := by cases s.cpha <;> rfl
  have h2 : sdoAfter s 0 = s.sdo := by unfold sdoAfter; cases s.cpha <;> rfl
  simp only [afterEdges, h1, fillBits_zero, h2, sckAfter, if_true]
  cases s; simp_all [inTransfer]

section
variable (s : State) (n : Nat) (c : Option Nat)

@[simp] theorem afterEdges_shifting : (afterEdges s n c).shifting = s.shifting := rfl
@[simp] theorem afterEdges_enabled : (afterEdges s n c).enabled = s.enabled := rfl
@[simp] theorem afterEdges_edge : (afterEdges s n c).edge = n := rfl
@[simp] theorem afterEdges_clock : (afterEdges s n c).env.clock = c := rfl
@[simp] theorem afterEdges_cpol : (afterEdges s n c).cpol = s.cpol := rfl
@[simp] theorem afterEdges_cpha : (afterEdges s n c).cpha = s.cpha := rfl
@[simp] theorem afterEdges_pos (k : Nat) : (afterEdges s n c).pos k = s.pos k := rfl
@[simp] theorem afterEdges_incoming : (afterEdges s n c).incoming = s.incoming := rfl
@[simp] theorem afterEdges_txsr : (afterEdges s n c).txsr = s.txsr := rfl
@[simp] theorem afterEdges_trace : (afterEdges s n c).trace = s.trace := rfl
@[simp] theorem afterEdges_seq : (afterEdges s n c).seq = s.seq := rfl

end

/-- One more edge (R160). -/
theorem edgeStep_afterEdges (s : State) (n : Nat) (c : Option Nat) (hs : s.shifting = true) (he : s.enabled = true)
    (hc : c ≠ some 0) (hn : n < 16) :
    (afterEdges s n c).edgeStep = afterEdges s (n + 1) (c.map (· - 1)) := by
  obtain ⟨k, rfl | rfl⟩ : ∃ k, n = 2 * k ∨ n = 2 * k + 1 := ⟨n / 2, by omega⟩
  all_goals
    have hbit := getLsbD_allOnes_byte (bitPos_lt (l := s.lsbFirst) (k := k) (by omega))
    have h1 : 2 * k / 2 = k := by omega
    have h2 : (2 * k + 1) / 2 = k := by omega
    have h3 : (2 * k + 1 + 1) / 2 = k + 1 := by omega
    have h4 : 2 * k % 2 = 0 := by omega
    have h5 : (2 * k + 1) % 2 = 1 := by omega
    have h6 : (2 * k + 1 + 1) % 2 = 0 := by omega
    have h7 : (2 * k + 1 + 1 + 1) / 2 = k + 1 := by omega
    cases hp : s.cpha
  · rw [afterEdges, edgeStep_leading_sample (edgeEnabled_inTransfer hs he hc hn) h4 hp]
    unfold afterEdges sckAfter sdoAfter cellsDone
    simp only [hp, h1, h2, h3, h5, fillBits_succ, hbit, State.pos, Bool.false_eq_true, if_false]
    congr 1
    · simp
    · have : 2 * k < 2 ↔ 2 * k + 1 < 2 := by omega
      simp [this]
  · rw [afterEdges, edgeStep_leading_shift (edgeEnabled_inTransfer hs he hc hn) h4 hp]
    unfold afterEdges sckAfter sdoAfter cellsDone
    simp [hp, h1, h2, h5]
  · rw [afterEdges, edgeStep_trailing_shift (edgeEnabled_inTransfer hs he hc hn) h5 hp]
    unfold afterEdges sckAfter sdoAfter cellsDone
    simp only [hp, h2, h3, h6, h7, Bool.false_eq_true, if_false]
    congr 1
    · simp
    · by_cases hk : k < 7
      · simp [hk]
      · simp [show k = 7 by omega]
  · rw [afterEdges, edgeStep_trailing_sample (edgeEnabled_inTransfer hs he hc hn) h5 hp]
    unfold afterEdges sckAfter sdoAfter cellsDone
    simp only [hp, h2, h3, h6, fillBits_succ, hbit, State.pos, if_true, show 2 * k + 1 + 1 - 1 = 2 * k + 1 by omega]
    simp

/-- A run of edges as far as the clock and the sixteen edges go. -/
theorem edges_afterEdges (s : State) (hs : s.shifting = true) (he : s.enabled = true) (m n : Nat) (c : Option Nat)
    (hc : ∀ b, c = some b → m ≤ b) (hn : n + m ≤ 16) :
    (afterEdges s n c).edges m = afterEdges s (n + m) (c.map (· - m)) := by
  induction m generalizing n c with
  | zero => cases c <;> simp [State.edges]
  | succ m ih =>
    have h0 : c ≠ some 0 := fun h => by have := hc 0 h; omega
    rw [State.edges, edgeStep_afterEdges s n c hs he h0 (by omega), ih]
    · rw [show n + 1 + m = n + (m + 1) by omega]
      cases c with
      | none => rfl
      | some d => simp [Nat.sub_sub, Nat.add_comm]
    · intro b hb
      cases c with
      | none => simp at hb
      | some d => have := hc d rfl; simp at hb; omega
    · omega

/-- With no edge enabled nothing changes, however many are asked for. -/
theorem edges_blocked {s : State} (h : s.edgeEnabled = false) (m : Nat) : s.edges m = s := by
  induction m with
  | zero => rfl
  | succ m ih => rw [State.edges, edgeStep_blocked h, ih]

theorem edges_add (s : State) (m n : Nat) : s.edges (m + n) = (s.edges m).edges n := by
  induction m generalizing s with
  | zero => simp [State.edges]
  | succ m ih => rw [Nat.succ_add, State.edges, State.edges, ih]

/-! ### A whole transfer -/

section
variable (s : State) (out : Byte)

@[simp] theorem startTransfer_shifting : (s.startTransfer out).shifting = true := by
  unfold State.startTransfer; split <;> rfl
@[simp] theorem startTransfer_edge : (s.startTransfer out).edge = 0 := by
  unfold State.startTransfer; split <;> rfl
@[simp] theorem startTransfer_env : (s.startTransfer out).env = s.env := by
  unfold State.startTransfer; split <;> rfl
@[simp] theorem startTransfer_cfg : (s.startTransfer out).cfg = s.cfg := by
  unfold State.startTransfer; split <;> rfl
@[simp] theorem startTransfer_txsr : (s.startTransfer out).txsr = out := by
  unfold State.startTransfer; split <;> rfl
@[simp] theorem startTransfer_trace : (s.startTransfer out).trace = s.trace := by
  unfold State.startTransfer; split <;> rfl
@[simp] theorem startTransfer_seq : (s.startTransfer out).seq = s.seq := by
  unfold State.startTransfer; split <;> rfl

theorem startTransfer_enabled : (s.startTransfer out).enabled = s.enabled := by
  unfold State.enabled; rw [startTransfer_cfg]

/-- The start step but for the level of SDO (R160). -/
theorem startTransfer_eq : ∃ p, s.startTransfer out = { s.loadShifter out with sdo := p } := by
  unfold State.startTransfer
  split
  · exact ⟨s.sdo, rfl⟩
  · exact ⟨_, rfl⟩

/-- The state after a complete transfer of `out` from `s` (R160, R162): the exchange of R132, and at the pins EDGE at 16, SCK
idle, SDO at the last bit, sixteen edges of the clock used. -/
def State.exchanged : State :=
  { s.exchange out with
    edge := 16, sck := .driven s.cpol, sdo := .driven (out.getLsbD (s.pos 7)), shifting := false
    env := { s.env.answered with clock := s.env.clock.map (· - 16) } }

end

theorem startTransfer_incoming (s : State) (out : Byte) :
    (s.startTransfer out).incoming = s.env.reply s.trace out := by
  unfold State.incoming; simp

/-- The sixteenth edge and the completion, from any state of the transfer (R162). -/
theorem complete_afterEdges (t : State) (c : Option Nat) (ht : t.shifting = true) :
    (afterEdges t 16 c).complete = { t with
      sck := .driven t.cpol, sdo := .driven (t.txsr.getLsbD (t.pos 7)), rxsr := t.incoming, rxd := t.incoming
      stat := t.stat ||| tcMask, edge := 16, trace := t.trace ++ [.send t.txsr t.incoming], shifting := false
      held := { t.held with rxsr := 0xFF#8, rxd := true }
      env := { t.env.answered with clock := c } } := by
  have h1 : cellsDone t.cpha 16 = 8 := by cases t.cpha <;> rfl
  have h2 : sckAfter t 16 = .driven t.cpol := by simp [sckAfter]
  have h3 : sdoAfter t 16 = .driven (t.txsr.getLsbD (t.pos 7)) := by unfold sdoAfter; cases t.cpha <;> simp
  unfold State.complete
  rw [if_pos (by simp [ht])]
  unfold afterEdges
  rw [h1, h2, h3, fillBits_eight, fillBits_eight]
  rfl

/-- A transfer for which the clock suffices completes (R134, R166). -/
theorem transfer_complete (s : State) (out : Byte) (hs : s.shifting = false) (he : s.enabled = true)
    (hc : s.env.clockCovers 16 = true) : s.transfer out = s.exchanged out := by
  have h0 : afterEdges (s.startTransfer out) 0 s.env.clock = s.startTransfer out := by
    have := afterEdges_zero (s := s.startTransfer out) (by simp)
    rwa [startTransfer_env] at this
  have h1 := edges_afterEdges (s.startTransfer out) (by simp) (by rw [startTransfer_enabled, he]) 16 0 s.env.clock
    (fun b hb => (Env.clockCovers_some hb 16).mp hc) (by omega)
  rw [h0] at h1
  unfold State.transfer State.started
  rw [hs, if_neg (by simp), h1, complete_afterEdges _ _ (by simp), startTransfer_incoming]
  obtain ⟨p, hp⟩ := startTransfer_eq s out
  rw [hp]
  rfl

/-- A transfer in which the clock stops after m edges waits there (R134, R195). -/
theorem transfer_cut (s : State) (out : Byte) (m : Nat) (hs : s.shifting = false) (he : s.enabled = true)
    (hc : s.env.clock = some m) (hm : m < 16) : s.transfer out = afterEdges (s.startTransfer out) m (some 0) := by
  have h0 : afterEdges (s.startTransfer out) 0 s.env.clock = s.startTransfer out := by
    have := afterEdges_zero (s := s.startTransfer out) (by simp)
    rwa [startTransfer_env] at this
  have h1 := edges_afterEdges (s.startTransfer out) (by simp) (by rw [startTransfer_enabled, he]) m 0 s.env.clock
    (fun b hb => by rw [hc] at hb; injection hb with hb; omega) (by omega)
  rw [h0, hc] at h1
  have h2 : (afterEdges (s.startTransfer out) m (some 0)).edgeEnabled = false := by
    simp [State.edgeEnabled, Env.clockRunning]
  unfold State.transfer State.started
  rw [hs, if_neg (by simp), show 16 = m + (16 - m) by omega, edges_add, h1]
  simp only [Nat.zero_add, Option.map_some, Nat.sub_self]
  rw [edges_blocked h2]
  unfold State.complete
  rw [if_neg (by simp [Nat.ne_of_lt hm])]

/-- A transfer that waits after n edges completes once the clock suffices for the rest (R216). -/
theorem transfer_resumed (t : State) (out : Byte) (n : Nat) (c : Option Nat) (ht : t.shifting = true) (he : t.enabled = true)
    (hn : n ≤ 16) (hc : ∀ b, c = some b → 16 - n ≤ b) :
    (afterEdges t n c).transfer out = (afterEdges t 16 (c.map (· - (16 - n)))).complete := by
  have h1 := edges_afterEdges t ht he (16 - n) n c hc (by omega)
  rw [show n + (16 - n) = 16 by omega] at h1
  have h2 : (afterEdges t 16 (c.map (· - (16 - n)))).edgeEnabled = false := by simp [State.edgeEnabled]
  unfold State.transfer State.started
  rw [if_pos (by simp [ht])]
  conv_lhs => rw [show 16 = (16 - n) + n by omega, edges_add, h1, edges_blocked h2]

end Sys2Proof.Machine
end

