-- ==== Sys2Proof/Laws/Sequencer.lean ====
section
/-! SUPPORT. Everything a transaction, a register command and RDAXES can do (42_register_client R182, R192, R195), and what a
transfer never touches. -/

namespace Sys2Proof.Machine

/-! ### What a transfer leaves alone -/

/-- The fields no step of a transfer writes agree in `s` and `t`. -/
structure TransferFrame (s t : State) : Prop where
  csn : t.csn = s.csn
  axis : t.axis = s.axis
  lob : t.lob = s.lob
  cmdr : t.cmdr = s.cmdr
  cfg : t.cfg = s.cfg
  seq : t.seq = s.seq
  ai : t.ai = s.ai
  hl : t.hl = s.hl
  heldAxis : t.held.axis = s.held.axis
  heldLob : t.held.lob = s.held.lob
  heldCmdr : t.held.cmdr = s.held.cmdr
  program : t.env.program = s.env.program
  clockLater : t.env.clockLater = s.env.clockLater
  hostData : t.hostData = s.hostData
  unwrittenReads : t.unwrittenReads = s.unwrittenReads

theorem TransferFrame.refl (s : State) : TransferFrame s s := by constructor <;> rfl

theorem TransferFrame.trans {s t u : State} (h : TransferFrame s t) (k : TransferFrame t u) : TransferFrame s u := by
  obtain ⟨⟩ := h; obtain ⟨⟩ := k; constructor <;> simp_all

theorem startTransfer_frame (s : State) (out : Byte) : TransferFrame s (s.startTransfer out) := by
  obtain ⟨p, hp⟩ := startTransfer_eq s out
  rw [hp]; constructor <;> rfl

theorem edgeStep_frame (s : State) : TransferFrame s s.edgeStep := by
  unfold State.edgeStep State.edgePins State.leadingEdge State.trailingEdge
  repeat' split
  all_goals constructor <;> rfl

theorem edges_frame (s : State) (n : Nat) : TransferFrame s (s.edges n) := by
  induction n generalizing s with
  | zero => exact .refl s
  | succ n ih => exact (edgeStep_frame s).trans (ih _)

theorem complete_frame (s : State) : TransferFrame s s.complete := by
  unfold State.complete; split <;> constructor <;> rfl

theorem started_frame (s : State) (out : Byte) : TransferFrame s (s.started out) := by
  unfold State.started; split
  · exact .refl s
  · exact startTransfer_frame s out

theorem transfer_frame (s : State) (out : Byte) : TransferFrame s (s.transfer out) :=
  ((started_frame s out).trans (edges_frame _ 16)).trans (complete_frame _)

/-! ### A transfer and the trace -/

theorem edgeStep_trace (s : State) : s.edgeStep.trace = s.trace := by
  unfold State.edgeStep State.edgePins State.leadingEdge State.trailingEdge
  repeat' split
  all_goals rfl

theorem edges_trace (s : State) (n : Nat) : (s.edges n).trace = s.trace := by
  induction n generalizing s with
  | zero => rfl
  | succ n ih => rw [State.edges, ih, edgeStep_trace]

theorem started_trace (s : State) (out : Byte) : (s.started out).trace = s.trace := by
  unfold State.started; split
  · rfl
  · exact startTransfer_trace s out

/-- A transfer adds at most one event to the trace (R162). -/
theorem transfer_trace (s : State) (out : Byte) :
    (s.transfer out).trace = s.trace ∨ ∃ o r, (s.transfer out).trace = s.trace ++ [.send o r] := by
  unfold State.transfer State.complete
  split
  · right
    refine ⟨((s.started out).edges 16).txsr, ((s.started out).edges 16).rxsr, ?_⟩
    show ((s.started out).edges 16).trace ++ _ = _
    rw [edges_trace, started_trace]
  · left; rw [edges_trace, started_trace]

/-! ### Phases -/

theorem selectPhase_at {s : State} (h : s.seq = .select) :
    s.selectPhase = ((s.driveCsn false).emit .select).goTo .addr := by simp [State.selectPhase, h]

theorem selectPhase_off {s : State} (h : s.seq ≠ .select) : s.selectPhase = s := by simp [State.selectPhase, h]

theorem addrPhase_at {s : State} (h : s.seq = .addr) (b : Byte) : s.addrPhase b = (s.transfer b).advance .data := by
  simp [State.addrPhase, h]

theorem addrPhase_off {s : State} (h : s.seq ≠ .addr) (b : Byte) : s.addrPhase b = s := by simp [State.addrPhase, h]

theorem dataPhase_at {s : State} (h : s.seq = .data) (b : Byte) : s.dataPhase b = (s.transfer b).advance .deselect := by
  simp [State.dataPhase, h]

theorem dataPhase_off {s : State} (h : s.seq ≠ .data) (b : Byte) : s.dataPhase b = s := by simp [State.dataPhase, h]

theorem deselectPhase_at {s : State} (h : s.seq = .deselect) :
    s.deselectPhase = ((s.driveCsn true).emit .deselect).goTo .idle := by simp [State.deselectPhase, h]

theorem deselectPhase_off {s : State} (h : s.seq ≠ .deselect) : s.deselectPhase = s := by simp [State.deselectPhase, h]

theorem advance_done {s : State} (h : s.shifting = false) (q : Seq) : s.advance q = s.goTo q := by
  simp [State.advance, h]

theorem advance_waiting {s : State} (h : s.shifting = true) (q : Seq) : s.advance q = s := by simp [State.advance, h]

/-! ### A whole transaction -/

/-- The state after a complete transaction from `s` (R182). -/
def State.framed (s : State) (hdr out : Byte) : State :=
  ((((((s.driveCsn false).emit .select).exchanged hdr).exchanged out).driveCsn true).emit .deselect).goTo .idle

section
variable (s : State) (out : Byte)

@[simp] theorem exchanged_shifting : (s.exchanged out).shifting = false := rfl
@[simp] theorem exchanged_enabled : (s.exchanged out).enabled = s.enabled := rfl
@[simp] theorem exchanged_clock : (s.exchanged out).env.clock = s.env.clock.map (· - 16) := rfl
@[simp] theorem exchanged_seq : (s.exchanged out).seq = s.seq := rfl
@[simp] theorem exchanged_rxd : (s.exchanged out).rxd = s.env.reply s.trace out := rfl
@[simp] theorem exchanged_trace : (s.exchanged out).trace = s.trace ++ [.send out (s.env.reply s.trace out)] := rfl

end

theorem clockCovers_exchanged {s : State} {out : Byte} {n : Nat} (h : s.env.clockCovers (16 + n) = true) :
    (s.exchanged out).env.clockCovers n = true := by
  unfold Env.clockCovers at *
  rw [exchanged_clock]
  cases hc : s.env.clock <;> simp_all
  omega

theorem clockCovers_le {e : Env} {m n : Nat} (h : e.clockCovers n = true) (hm : m ≤ n) : e.clockCovers m = true := by
  unfold Env.clockCovers at *
  split <;> simp_all
  omega

/-- A transaction for which the clock suffices completes (R182). -/
theorem transaction_complete (s : State) (rw : Bool) (a : Nat) (d : Byte) (hq : s.seq = .select) (hs : s.shifting = false)
    (he : s.enabled = true) (hc : s.env.clockCovers 32 = true) :
    s.transaction rw a d = s.framed (header rw a) (dataByte rw d) := by
  unfold State.transaction
  rw [selectPhase_at hq, addrPhase_at rfl,
    transfer_complete _ _ (by exact hs) (by exact he) (by exact clockCovers_le hc (by omega)), advance_done rfl,
    dataPhase_at rfl, transfer_complete _ _ rfl (by exact he)
      (by exact clockCovers_exchanged (s := (s.driveCsn false).emit .select) (out := header rw a) (n := 16) hc), advance_done rfl,
    deselectPhase_at rfl]
  rfl

/-- The last cell carries bit 7 or bit 0 (R154). -/
theorem pos_seven (s : State) : s.pos 7 = if s.lsbFirst then 7 else 0 := by unfold State.pos bitPos; split <;> rfl

theorem setTc_twice (b : BitVec 16) : (((b &&& ~~~tcMask) ||| tcMask) &&& ~~~tcMask) ||| tcMask = b ||| tcMask := by
  apply BitVec.eq_of_getLsbD_eq
  intro i hi
  simp only [BitVec.getLsbD_or, BitVec.getLsbD_and, BitVec.getLsbD_not, hi, decide_true, Bool.true_and]
  cases b.getLsbD i <;> cases tcMask.getLsbD i <;> rfl

theorem clock_sub_twice (c : Option Nat) : (c.map (· - 16)).map (· - 16) = c.map (· - 32) := by
  cases c <;> simp
  omega

/-- A complete transaction written out field by field; `i0` and `i1` are the two answers (R182, R186, R190). -/
theorem framed_eq (s : State) (hdr out : Byte) : ∃ i0 i1,
    i0 = s.env.reply (s.trace ++ [.select]) hdr
      ∧ i1 = s.env.answered.reply (s.trace ++ [.select, .send hdr i0]) out
      ∧ s.framed hdr out = { s with
        csn := .driven true, sck := .driven s.cpol, sdo := .driven (out.getLsbD (if s.lsbFirst then 7 else 0))
        rxd := i1, txsr := out, rxsr := i1, stat := s.stat ||| tcMask
        trace := s.trace ++ frameEvents hdr i0 out i1
        held := { s.held with txsr := true, rxsr := 0xFF#8, rxd := true }
        edge := 16, shifting := false, seq := .idle, env := (s.env.answeredTimes 2).clockUsed 32 } := by
  refine ⟨_, _, rfl, rfl, ?_⟩
  unfold State.framed State.exchanged State.exchange State.loadExchange State.setTc State.clearTc State.emit State.driveCsn
    State.goTo frameEvents
  simp only [pos_seven, List.append_assoc, List.cons_append, List.nil_append, setTc_twice, Env.answered,
    Env.answeredTimes, Env.clockUsed, clock_sub_twice]
  rfl

/-- The two answers of a frame are the environment's (R66). -/
theorem answersIn_frameEvents (e : Env) (before : List BusEvent) (hdr out : Byte) :
    e.answersIn before (frameEvents hdr (e.reply (before ++ [.select]) hdr) out
      (e.answered.reply (before ++ [.select, .send hdr (e.reply (before ++ [.select]) hdr)]) out)) = true := by
  simp [frameEvents, Env.answersIn]

/-- Answers after a frame are those of the environment after two transfers (R66). -/
theorem answersIn_frameEvents_append (e : Env) (before : List BusEvent) (hdr i0 out i1 : Byte) (rest : List BusEvent) :
    e.answersIn before (frameEvents hdr i0 out i1 ++ rest) =
      (e.answersIn before (frameEvents hdr i0 out i1)
        && (e.answeredTimes 2).answersIn (before ++ frameEvents hdr i0 out i1) rest) := by
  simp [frameEvents, Env.answersIn, Env.answeredTimes, Bool.and_assoc]

/-- The clock has no say in the answers (R66). -/
theorem answersIn_clock (e : Env) (c : Option Nat) (before events : List BusEvent) :
    ({ e with clock := c }).answersIn before events = e.answersIn before events := by
  have hr : ∀ (e : Env) (t : List BusEvent) (o : Byte), ({ e with clock := c }).reply t o = e.reply t o :=
    fun _ _ _ => rfl
  induction events generalizing e before with
  | nil => rfl
  | cons ev rest ih =>
    cases ev <;> simp only [Env.answersIn, hr, ih]
    congr 1
    exact ih e.answered _

/-- The clock stays out of a complete transaction but for the edges it uses (R48). -/
theorem framed_withClock (s : State) (hdr out : Byte) (c : Option Nat) (later : List (Option Nat)) :
    (s.withClock c later).framed hdr out = (s.framed hdr out).withClock (c.map (· - 32)) later := by
  obtain ⟨i0, i1, h0, h1, e⟩ := framed_eq s hdr out
  obtain ⟨j0, j1, k0, k1, e'⟩ := framed_eq (s.withClock c later) hdr out
  have a0 : j0 = i0 := k0.trans h0.symm
  subst a0
  have a1 : j1 = i1 := k1.trans h1.symm
  subst a1
  rw [e, e']
  rfl

/-- A transaction whose clock stops in its address byte waits there, the frame open (R195). -/
theorem transaction_cut_addr (s : State) (rw : Bool) (a : Nat) (d : Byte) (m : Nat) (hq : s.seq = .select)
    (hs : s.shifting = false) (he : s.enabled = true) (hc : s.env.clock = some m) (hm : m < 16) :
    s.transaction rw a d =
      afterEdges ((((s.driveCsn false).emit .select).goTo .addr).startTransfer (header rw a)) m (some 0) := by
  unfold State.transaction
  rw [selectPhase_at hq, addrPhase_at rfl, transfer_cut _ _ m (by exact hs) (by exact he) (by exact hc) hm,
    advance_waiting (by simp), dataPhase_off (by simp), deselectPhase_off (by simp)]

/-- A transaction whose clock stops in its data byte waits there, the frame open (R195). -/
theorem transaction_cut_data (s : State) (rw : Bool) (a : Nat) (d : Byte) (m : Nat) (hq : s.seq = .select)
    (hs : s.shifting = false) (he : s.enabled = true) (hc : s.env.clock = some (16 + m)) (hm : m < 16) :
    s.transaction rw a d =
      afterEdges (((((s.driveCsn false).emit .select).exchanged (header rw a)).goTo .data).startTransfer
        (dataByte rw d)) m (some 0) := by
  unfold State.transaction
  rw [selectPhase_at hq, addrPhase_at rfl, transfer_complete _ _ (by exact hs) (by exact he)
      (by exact (Env.clockCovers_some (e := s.env) hc 16).mpr (by omega)), advance_done rfl, dataPhase_at rfl,
    transfer_cut _ _ m rfl (by exact he) (by
      show (s.env.clock.map (· - 16)) = some m
      rw [hc]; simp) hm,
    advance_waiting (by simp), deselectPhase_off (by simp)]
  rfl

/-- A transaction that is not at its first step and waits in a transfer that cannot go on changes nothing. -/
theorem transaction_waiting {s : State} (rw : Bool) (a : Nat) (d : Byte) (hq : s.seq = .addr ∨ s.seq = .data)
    (hs : s.shifting = true) (he : s.edge < 16) (hc : s.env.clock = some 0) : s.transaction rw a d = s := by
  have hb : s.edgeEnabled = false := by simp [State.edgeEnabled, Env.clockRunning, hc]
  have ht : ∀ out, s.transfer out = s := by
    intro out
    unfold State.transfer State.started
    rw [hs, if_pos rfl, edges_blocked hb]
    unfold State.complete
    rw [if_neg (by simp [Nat.ne_of_lt he])]
  unfold State.transaction
  rcases hq with hq | hq
  · rw [selectPhase_off (by simp [hq]), addrPhase_at hq, ht, advance_waiting hs, dataPhase_off (by simp [hq]),
      deselectPhase_off (by simp [hq])]
  · rw [selectPhase_off (by simp [hq]), addrPhase_off (by simp [hq]), dataPhase_at hq, ht, advance_waiting hs,
      deselectPhase_off (by simp [hq])]

/-! ### What a transaction leaves alone -/

/-- The fields no step of a transaction writes agree in `s` and `t`. -/
structure TransactionFrame (s t : State) : Prop where
  axis : t.axis = s.axis
  lob : t.lob = s.lob
  cmdr : t.cmdr = s.cmdr
  cfg : t.cfg = s.cfg
  ai : t.ai = s.ai
  hl : t.hl = s.hl
  heldAxis : t.held.axis = s.held.axis
  heldLob : t.held.lob = s.held.lob
  heldCmdr : t.held.cmdr = s.held.cmdr
  program : t.env.program = s.env.program
  clockLater : t.env.clockLater = s.env.clockLater
  hostData : t.hostData = s.hostData
  unwrittenReads : t.unwrittenReads = s.unwrittenReads

theorem TransactionFrame.refl (s : State) : TransactionFrame s s := by constructor <;> rfl

theorem TransactionFrame.trans {s t u : State} (h : TransactionFrame s t) (k : TransactionFrame t u) :
    TransactionFrame s u := by
  obtain ⟨⟩ := h; obtain ⟨⟩ := k; constructor <;> simp_all

theorem TransferFrame.toTransaction {s t : State} (h : TransferFrame s t) : TransactionFrame s t :=
  ⟨h.axis, h.lob, h.cmdr, h.cfg, h.ai, h.hl, h.heldAxis, h.heldLob, h.heldCmdr, h.program, h.clockLater,
    h.hostData, h.unwrittenReads⟩

theorem advance_frame (s : State) (q : Seq) : TransactionFrame s (s.advance q) := by
  unfold State.advance; split <;> constructor <;> rfl

theorem selectPhase_frame (s : State) : TransactionFrame s s.selectPhase := by
  unfold State.selectPhase; split <;> constructor <;> rfl

theorem addrPhase_frame (s : State) (b : Byte) : TransactionFrame s (s.addrPhase b) := by
  unfold State.addrPhase; split
  · exact (transfer_frame s b).toTransaction.trans (advance_frame _ _)
  · exact .refl s

theorem dataPhase_frame (s : State) (b : Byte) : TransactionFrame s (s.dataPhase b) := by
  unfold State.dataPhase; split
  · exact (transfer_frame s b).toTransaction.trans (advance_frame _ _)
  · exact .refl s

theorem deselectPhase_frame (s : State) : TransactionFrame s s.deselectPhase := by
  unfold State.deselectPhase; split <;> constructor <;> rfl

theorem transaction_frame (s : State) (rw : Bool) (a : Nat) (d : Byte) : TransactionFrame s (s.transaction rw a d) :=
  (((selectPhase_frame s).trans (addrPhase_frame _ _)).trans (dataPhase_frame _ _)).trans (deselectPhase_frame _)

/-! ### RDAXES -/

/-- The state after one complete register read of RDAXES (R192). -/
def State.axisReadDone (s : State) (base : Nat) : State :=
  (s.framed (header true (axisAddress base s.ai s.hl)) dummyByte).axisLatch

/-- One register read of RDAXES for which the clock suffices (R192). -/
theorem axisRead_complete (s : State) (base : Nat) (hq : s.seq = .select) (hs : s.shifting = false)
    (he : s.enabled = true) (hc : s.env.clockCovers 32 = true) : s.axisRead base = s.axisReadDone base := by
  have h := transaction_complete s true (axisAddress base s.ai s.hl) dummyByte hq hs he hc
  rw [show dataByte true dummyByte = dummyByte from rfl] at h
  unfold State.axisRead State.axisTransaction
  rw [h, if_pos (show (s.framed _ dummyByte).seq = .idle from rfl)]
  rfl

theorem axisReads_succ_complete (s : State) (base n : Nat) (hq : s.seq = .select) (hs : s.shifting = false)
    (he : s.enabled = true) (hc : s.env.clockCovers 32 = true) :
    s.axisReads base (n + 1) = (s.axisReadDone base).axisReads base n := by
  rw [State.axisReads, if_neg (by simp [hq]), axisRead_complete s base hq hs he hc]

section
variable (s : State) (base : Nat)

/-- After a low byte the high byte of the same axis is next (R192). -/
theorem axisReadDone_low (h : s.hl = false) :
    s.axisReadDone base = (s.framed (header true (axisAddress base s.ai s.hl)) dummyByte).keepLow := by
  unfold State.axisReadDone State.axisLatch
  rw [if_neg]; exact fun hc => by rw [show (s.framed _ dummyByte).hl = s.hl from rfl, h] at hc; simp at hc

/-- After a high byte the sample is assembled and the next axis is next (R192, R194). -/
theorem axisReadDone_high (h : s.hl = true) :
    s.axisReadDone base = (s.framed (header true (axisAddress base s.ai s.hl)) dummyByte).assemble.nextAxis := by
  unfold State.axisReadDone State.axisLatch
  rw [if_pos (show (s.framed _ dummyByte).hl = true from h)]

end

/-- A state of RDAXES between two of its register reads, the clock covering the rest. -/
structure AxisPoint (s : State) (ai : Axis) (hl : Bool) (n : Nat) : Prop where
  seq : s.seq = .select
  shifting : s.shifting = false
  enabled : s.enabled = true
  clock : s.env.clockCovers n = true
  ai : s.ai = ai
  hl : s.hl = hl

theorem clockCovers_framed {s : State} {hdr out : Byte} {n : Nat} (h : s.env.clockCovers (32 + n) = true) :
    (s.framed hdr out).env.clockCovers n = true := by
  unfold Env.clockCovers at *
  show (match (s.env.clock.map (· - 16)).map (· - 16) with | none => true | some m => decide (n ≤ m)) = true
  cases hc : s.env.clock <;> simp_all
  omega

theorem AxisPoint.low {s : State} {ai : Axis} {n : Nat} (h : AxisPoint s ai false (32 + n)) (base : Nat) :
    AxisPoint (s.axisReadDone base) ai true n := by
  rw [axisReadDone_low s base h.hl]
  exact ⟨rfl, rfl, h.enabled, clockCovers_framed (s := s) (hdr := header true (axisAddress base s.ai s.hl)) (out := dummyByte) h.clock, h.ai, rfl⟩

theorem AxisPoint.high_x {s : State} {n : Nat} (h : AxisPoint s .x true (32 + n)) (base : Nat) :
    AxisPoint (s.axisReadDone base) .y false n := by
  rw [axisReadDone_high s base h.hl]
  have hai : ((s.framed (header true (axisAddress base s.ai s.hl)) dummyByte).assemble).ai = .x := h.ai
  unfold State.nextAxis
  rw [hai]
  exact ⟨rfl, rfl, h.enabled, clockCovers_framed (s := s) (hdr := header true (axisAddress base s.ai s.hl)) (out := dummyByte) h.clock, rfl, rfl⟩

theorem AxisPoint.high_y {s : State} {n : Nat} (h : AxisPoint s .y true (32 + n)) (base : Nat) :
    AxisPoint (s.axisReadDone base) .z false n := by
  rw [axisReadDone_high s base h.hl]
  have hai : ((s.framed (header true (axisAddress base s.ai s.hl)) dummyByte).assemble).ai = .y := h.ai
  unfold State.nextAxis
  rw [hai]
  exact ⟨rfl, rfl, h.enabled, clockCovers_framed (s := s) (hdr := header true (axisAddress base s.ai s.hl)) (out := dummyByte) h.clock, rfl, rfl⟩

/-- RDAXES for which the clock suffices is its six register reads (R192). -/
theorem runAxes_complete (s : State) (base : Nat) (h : AxisPoint s .x false 192) :
    s.runAxes base =
      (((((s.axisReadDone base).axisReadDone base).axisReadDone base).axisReadDone base).axisReadDone base).axisReadDone
        base := by
  have h1 : AxisPoint (s.axisReadDone base) .x true 160 := AxisPoint.low (n := 160) h base
  have h2 := AxisPoint.high_x (n := 128) h1 base
  have h3 := AxisPoint.low (n := 96) h2 base
  have h4 := AxisPoint.high_y (n := 64) h3 base
  have h5 := AxisPoint.low (n := 32) h4 base
  unfold State.runAxes
  rw [axisReads_succ_complete _ _ _ h.seq h.shifting h.enabled (clockCovers_le h.clock (by omega)),
    axisReads_succ_complete _ _ _ h1.seq h1.shifting h1.enabled (clockCovers_le h1.clock (by omega)),
    axisReads_succ_complete _ _ _ h2.seq h2.shifting h2.enabled (clockCovers_le h2.clock (by omega)),
    axisReads_succ_complete _ _ _ h3.seq h3.shifting h3.enabled (clockCovers_le h3.clock (by omega)),
    axisReads_succ_complete _ _ _ h4.seq h4.shifting h4.enabled (clockCovers_le h4.clock (by omega)),
    axisReads_succ_complete _ _ _ h5.seq h5.shifting h5.enabled h5.clock]
  rfl

end Sys2Proof.Machine
end

