-- ==== Sys2Proof/Laws/Axes.lean ====
section
/-! SUPPORT. RDAXES read by read (42_register_client R192), with a clock that suffices and with one that stops (R195). -/

namespace Sys2Proof.Machine

/-- The state of RDAXES after k complete register reads (R192). -/
def State.axisReadsDone (s : State) (base : Nat) : Nat → State
  | 0 => s
  | k + 1 => (s.axisReadDone base).axisReadsDone base k

/-- AI before read k of the six, counted from 0 (R192). -/
def axisAt (k : Nat) : Axis := if k < 2 then .x else if k < 4 then .y else .z

/-- HL before read k of the six, counted from 0 (R192). -/
def highAt (k : Nat) : Bool := decide (k % 2 = 1)

/-! ### With a clock that suffices -/

theorem AxisPoint.next {s : State} {k n : Nat} (h : AxisPoint s (axisAt k) (highAt k) (32 + n)) (hk : k < 5) (base : Nat) :
    AxisPoint (s.axisReadDone base) (axisAt (k + 1)) (highAt (k + 1)) n := by
  interval_cases k
  · exact AxisPoint.low h base
  · exact AxisPoint.high_x h base
  · exact AxisPoint.low h base
  · exact AxisPoint.high_y h base
  · exact AxisPoint.low h base

/-- Where RDAXES stands after k more of its reads. -/
theorem AxisPoint.after {s : State} {k n : Nat} (j : Nat) (h : AxisPoint s (axisAt j) (highAt j) (32 * k + n))
    (hk : j + k ≤ 5) (base : Nat) : AxisPoint (s.axisReadsDone base k) (axisAt (j + k)) (highAt (j + k)) n := by
  induction k generalizing s j with
  | zero => rw [Nat.mul_zero, Nat.zero_add] at h; exact h
  | succ k ih =>
    rw [show 32 * (k + 1) + n = 32 + (32 * k + n) by omega] at h
    have := ih (j + 1) (h.next (by omega) base) (by omega)
    rwa [show j + 1 + k = j + (k + 1) by omega] at this

/-- The first k reads for which the clock suffices are done, the others follow. -/
theorem axisReads_after {s : State} {k n : Nat} (j r : Nat) (h : AxisPoint s (axisAt j) (highAt j) (32 * k + n))
    (hk : j + k ≤ 5) (base : Nat) : s.axisReads base (k + r) = (s.axisReadsDone base k).axisReads base r := by
  induction k generalizing s j with
  | zero => simp [State.axisReadsDone]
  | succ k ih =>
    rw [show 32 * (k + 1) + n = 32 + (32 * k + n) by omega] at h
    rw [show k + 1 + r = (k + r) + 1 by omega,
      axisReads_succ_complete _ _ _ h.seq h.shifting h.enabled (clockCovers_le h.clock (by omega)),
      ih (j + 1) (h.next (by omega) base) (by omega)]
    rfl

theorem runAxes_done (s : State) (base : Nat) (h : AxisPoint s .x false 192) :
    s.runAxes base = s.axisReadsDone base 6 := by
  rw [runAxes_complete s base h]; rfl

/-- Once RDAXES has retired it reads no more. -/
theorem axisReads_idle {s : State} (h : s.seq = .idle) (base n : Nat) : s.axisReads base n = s := by
  cases n <;> simp [State.axisReads, h]

/-! ### The clock and the samples -/

theorem nextAxis_withClock (s : State) (c : Option Nat) (later : List (Option Nat)) :
    (s.withClock c later).nextAxis = s.nextAxis.withClock c later := by
  have h : (s.withClock c later).ai = s.ai := rfl
  unfold State.nextAxis
  rw [h]
  cases s.ai <;> rfl

theorem axisReadDone_withClock (s : State) (base : Nat) (c : Option Nat) (later : List (Option Nat)) :
    (s.withClock c later).axisReadDone base = (s.axisReadDone base).withClock (c.map (· - 32)) later := by
  cases hh : s.hl
  · rw [axisReadDone_low _ _ (by exact hh), axisReadDone_low _ _ hh, framed_withClock]
    rfl
  · rw [axisReadDone_high _ _ (by exact hh), axisReadDone_high _ _ hh, framed_withClock, ← nextAxis_withClock]
    rfl

/-- The clock stays out of complete reads but for the edges they use (R48). -/
theorem axisReadsDone_withClock (s : State) (base k : Nat) (c : Option Nat) (later : List (Option Nat)) :
    (s.withClock c later).axisReadsDone base k = (s.axisReadsDone base k).withClock (c.map (· - 32 * k)) later := by
  induction k generalizing s c with
  | zero => cases c <;> rfl
  | succ k ih =>
    unfold State.axisReadsDone
    rw [axisReadDone_withClock, ih]
    congr 1
    cases c <;> simp
    omega

theorem axisReadsDone_clock (s : State) (base k : Nat) :
    (s.axisReadsDone base k).env.clock = s.env.clock.map (· - 32 * k) :=
  congrArg (fun t => t.env.clock) (axisReadsDone_withClock s base k s.env.clock s.env.clockLater)

theorem PerAxis.get_set {α : Type} (p : PerAxis α) (a b : Axis) (v : α) :
    (p.set a v).get b = if b = a then v else p.get b := by
  cases a <;> cases b <;> rfl

/-- A read writes AXIS only after a high byte, and then only the part AI names (R192). -/
theorem axisReadDone_axis (s : State) (base : Nat) : ∃ v,
    (s.axisReadDone base).axis = (if s.hl then s.axis.set s.ai v else s.axis)
      ∧ (s.axisReadDone base).held.axis = (if s.hl then s.held.axis.set s.ai true else s.held.axis) := by
  cases hh : s.hl
  · rw [axisReadDone_low _ _ hh]; exact ⟨0, rfl, rfl⟩
  · rw [axisReadDone_high _ _ hh]
    refine ⟨sample (s.framed (header true (axisAddress base s.ai s.hl)) dummyByte).lob
      (s.framed (header true (axisAddress base s.ai s.hl)) dummyByte).rxd, ?_, ?_⟩
    all_goals unfold State.nextAxis; split <;> rfl

/-! ### With a clock that stops -/

/-- A read that waits in a transfer without a clock changes nothing. -/
theorem axisReads_waiting {s : State} (base n : Nat) (hq : s.seq = .addr ∨ s.seq = .data) (hs : s.shifting = true)
    (he : s.edge < 16) (hc : s.env.clock = some 0) : s.axisReads base n = s := by
  induction n with
  | zero => rfl
  | succ n ih =>
    have hi : s.seq ≠ .idle := by rcases hq with h | h <;> simp [h]
    have h1 : s.axisRead base = s := by
      unfold State.axisRead State.axisTransaction
      rw [transaction_waiting _ _ _ hq hs he hc, if_neg hi]
    rw [State.axisReads, if_neg hi, h1, ih]

/-- RDAXES whose clock stops after m edges waits in the read m / 32, the reads before it done (R195). -/
theorem runAxes_cut (s : State) (base m : Nat) (h : AxisPoint s .x false m) (hc : s.env.clock = some m) (hm : m < 192) :
    ∃ t, s.runAxes base = t ∧ t = (s.axisReadsDone base (m / 32)).axisTransaction base ∧ t.shifting = true
      ∧ t.edge = m % 16 ∧ t.env.clock = some 0 ∧ t.csn = .driven false
      ∧ t.seq = (if m % 32 < 16 then .addr else .data) := by
  have h0 : AxisPoint s (axisAt 0) (highAt 0) (32 * (m / 32) + m % 32) := by rw [Nat.div_add_mod]; exact h
  have hp := AxisPoint.after 0 h0 (by omega) base
  have hu : (s.axisReadsDone base (m / 32)).env.clock = some (m % 32) := by
    rw [axisReadsDone_clock, hc]; simp; omega
  have hr := axisReads_after 0 (6 - m / 32) h0 (by omega) base
  rw [show m / 32 + (6 - m / 32) = 6 by omega] at hr
  generalize s.axisReadsDone base (m / 32) = u at hp hu hr
  obtain ⟨k, hk⟩ : ∃ k, 6 - m / 32 = k + 1 := ⟨5 - m / 32, by omega⟩
  have key : (u.axisTransaction base).shifting = true ∧ (u.axisTransaction base).edge = m % 16
      ∧ (u.axisTransaction base).env.clock = some 0 ∧ (u.axisTransaction base).csn = .driven false
      ∧ (u.axisTransaction base).seq = (if m % 32 < 16 then .addr else .data) := by
    unfold State.axisTransaction
    by_cases hx : m % 32 < 16
    · rw [transaction_cut_addr u _ _ _ (m % 32) hp.seq hp.shifting hp.enabled hu hx, if_pos hx]
      obtain ⟨p, hp⟩ := startTransfer_eq (((u.driveCsn false).emit .select).goTo .addr)
        (header true (axisAddress base u.ai u.hl))
      rw [hp]
      exact ⟨rfl, by simp; omega, rfl, rfl, rfl⟩
    · rw [transaction_cut_data u _ _ _ (m % 16) hp.seq hp.shifting hp.enabled (by rw [hu]; congr 1; omega) (by omega),
        if_neg hx]
      obtain ⟨p, hp⟩ := startTransfer_eq ((((u.driveCsn false).emit .select).exchanged
        (header true (axisAddress base u.ai u.hl))).goTo .data) (dataByte true dummyByte)
      rw [hp]
      exact ⟨rfl, by simp, rfl, rfl, rfl⟩
  obtain ⟨k1, k2, k3, k4, k5⟩ := key
  refine ⟨_, ?_, rfl, k1, k2, k3, k4, k5⟩
  unfold State.runAxes
  have hi : (u.axisTransaction base).seq ≠ .idle := by rw [k5]; split <;> simp
  rw [hr, hk, State.axisReads, if_neg (by simp [hp.seq]), State.axisRead, if_neg hi]
  exact axisReads_waiting base k (by rw [k5]; split <;> simp) k1 (by rw [k2]; omega) k3

end Sys2Proof.Machine
end

