-- ==== Sys2Proof/Laws/Encoding.lean ====
section
/-! SUPPORT. The fields and fixed bits of the words the encoder writes (30_encoding R91, R96 to R100). -/

namespace Sys2Proof

/-! ### Command words -/

theorem opField_commandOf (op : BitVec 4) (a : BitVec 7) (d : Byte) : opField (commandOf op a d) = op.toNat := by
  unfold opField; congr 1
  apply BitVec.eq_of_getLsbD_eq; intro i hi
  simp only [commandOf, BitVec.getLsbD_extractLsb', BitVec.getLsbD_append]
  interval_cases i <;> simp

theorem addrField_commandOf (op : BitVec 4) (a : BitVec 7) (d : Byte) : addrField (commandOf op a d) = a.toNat := by
  unfold addrField; congr 1
  apply BitVec.eq_of_getLsbD_eq; intro i hi
  simp only [commandOf, BitVec.getLsbD_extractLsb', BitVec.getLsbD_append]
  interval_cases i <;> simp

theorem dataField_commandOf (op : BitVec 4) (a : BitVec 7) (d : Byte) : dataField (commandOf op a d) = d := by
  unfold dataField
  apply BitVec.eq_of_getLsbD_eq; intro i hi
  simp only [commandOf, BitVec.getLsbD_extractLsb', BitVec.getLsbD_append]
  interval_cases i <;> simp

theorem opField_configCommandOf (op : BitVec 4) (cfg : BitVec 9) : opField (configCommandOf op cfg) = op.toNat := by
  unfold opField; congr 1
  apply BitVec.eq_of_getLsbD_eq; intro i hi
  simp only [configCommandOf, BitVec.getLsbD_extractLsb', BitVec.getLsbD_append]
  interval_cases i <;> simp

theorem cfgiField_configCommandOf (op : BitVec 4) (cfg : BitVec 9) : cfgiField (configCommandOf op cfg) = cfg := by
  unfold cfgiField
  apply BitVec.eq_of_getLsbD_eq; intro i hi
  simp only [configCommandOf, BitVec.getLsbD_extractLsb', BitVec.getLsbD_append]
  interval_cases i <;> simp

/-- The fixed bits of format C (R96). -/
theorem configCommandOf_and (op : BitVec 4) (cfg : BitVec 9) :
    configCommandOf op cfg &&& 0xFFFFFE00#32 = op ++ 0#28 := by
  apply BitVec.eq_of_getLsbD_eq; intro i hi
  simp only [configCommandOf, BitVec.getLsbD_append, BitVec.getLsbD_and]
  interval_cases i <;> simp (decide := true)

/-- The fixed bits of format AD (R96). -/
theorem commandOf_and (op : BitVec 4) (a : BitVec 7) (d : Byte) : commandOf op a d &&& 0xFFFF8000#32 = op ++ 0#28 := by
  apply BitVec.eq_of_getLsbD_eq; intro i hi
  simp only [commandOf, BitVec.getLsbD_append, BitVec.getLsbD_and]
  interval_cases i <;> simp (decide := true)

/-- The fixed bits of format A (R96). -/
theorem commandOf_and_address (op : BitVec 4) (a : BitVec 7) :
    commandOf op a 0#8 &&& 0xFFFF80FF#32 = op ++ 0#28 := by
  apply BitVec.eq_of_getLsbD_eq; intro i hi
  simp only [commandOf, BitVec.getLsbD_append, BitVec.getLsbD_and]
  interval_cases i <;> simp (decide := true)

/-- The fixed bits of format D (R96). -/
theorem commandOf_and_data (op : BitVec 4) (d : Byte) : commandOf op 0#7 d &&& 0xFFFFFF00#32 = op ++ 0#28 := by
  apply BitVec.eq_of_getLsbD_eq; intro i hi
  simp only [commandOf, BitVec.getLsbD_append, BitVec.getLsbD_and]
  interval_cases i <;> simp (decide := true)

/-! ### Wire frames -/

theorem frameRead_frameOf (rw : Bool) (a : BitVec 7) (d : Byte) : frameRead (frameOf rw a d) = rw := by
  unfold frameRead frameOf
  simp only [BitVec.getLsbD_append]
  simp

theorem frameAddr_frameOf (rw : Bool) (a : BitVec 7) (d : Byte) : frameAddr (frameOf rw a d) = a.toNat := by
  unfold frameAddr; congr 1
  apply BitVec.eq_of_getLsbD_eq; intro i hi
  simp only [frameOf, BitVec.getLsbD_extractLsb', BitVec.getLsbD_append]
  interval_cases i <;> simp

theorem frameData_frameOf (rw : Bool) (a : BitVec 7) (d : Byte) : frameData (frameOf rw a d) = d := by
  unfold frameData
  apply BitVec.eq_of_getLsbD_eq; intro i hi
  simp only [frameOf, BitVec.getLsbD_extractLsb', BitVec.getLsbD_append]
  interval_cases i <;> simp

/-- The fixed bit of a wire frame (R91). -/
theorem frameOf_and (rw : Bool) (a : BitVec 7) (d : Byte) :
    frameOf rw a d &&& 0x8000#16 = BitVec.ofBool rw ++ 0#15 := by
  apply BitVec.eq_of_getLsbD_eq; intro i hi
  simp only [frameOf, BitVec.getLsbD_append, BitVec.getLsbD_and]
  interval_cases i <;> simp (decide := true)

/-- The fixed bits of a read frame (R91, R93). -/
theorem frameOf_and_read (rw : Bool) (a : BitVec 7) :
    frameOf rw a 0#8 &&& 0x80FF#16 = BitVec.ofBool rw ++ 0#15 := by
  apply BitVec.eq_of_getLsbD_eq; intro i hi
  simp only [frameOf, BitVec.getLsbD_append, BitVec.getLsbD_and]
  interval_cases i <;> simp (decide := true)

/-! ### Addresses -/

/-- An address that fits its field comes back out of it. -/
theorem addressBits_toNat {a : Nat} (h : addressFits a = true) : (addressBits a).toNat = a := by
  simp [addressFits] at h
  simp [addressBits, BitVec.toNat_ofNat]
  omega

end Sys2Proof
end

