-- ==== Sys2Proof/Laws/PerInstr.lean ====
section
/-! SUPPORT. Statements made per instruction. Family TableRow: the word of a well-formed instruction has the fixed bits of its
row of `spec/opcode_table.json` and, where the row has operands, carries them in its fields (30_encoding R91, R100). -/

namespace Sys2Proof.Laws.TableRow

/-- The word `c` is a command word that meets `word & mask = pattern` (R100). -/
def CommandMeets (c : CodeWord) (mask pattern : CommandWord) (P : CommandWord → Prop) : Prop :=
  ∃ w, c = .command w ∧ w &&& mask = pattern ∧ P w

/-- The word `c` is a wire frame that meets `word & mask = pattern` (R91). -/
def FrameMeets (c : CodeWord) (mask pattern : FrameWord) (P : FrameWord → Prop) : Prop :=
  ∃ w, c = .frame w ∧ w &&& mask = pattern ∧ P w

/-- The row of each instruction. -/
def Meets : Instr → Prop
  | .init cfg => CommandMeets (encode (.init cfg)) 0xFFFFFE00#32 0x10000000#32 fun w => cfgiField w = cfg
  | .select => CommandMeets (encode .select) 0xFFFFFFFF#32 0x20000000#32 fun _ => True
  | .deselect => CommandMeets (encode .deselect) 0xFFFFFFFF#32 0x30000000#32 fun _ => True
  | .xfer d => CommandMeets (encode (.xfer d)) 0xFFFFFF00#32 0x40000000#32 fun w => dataField w = d
  | .rdreg a => CommandMeets (encode (.rdreg a)) 0xFFFF80FF#32 0x50000000#32 fun w => addrField w = a
  | .wrreg a d =>
    CommandMeets (encode (.wrreg a d)) 0xFFFF8000#32 0x60000000#32 fun w => addrField w = a ∧ dataField w = d
  | .rdaxes b => CommandMeets (encode (.rdaxes b)) 0xFFFF80FF#32 0x70000000#32 fun w => addrField w = b
  | .rdframe a => FrameMeets (encode (.rdframe a)) 0x80FF#16 0x8000#16 fun w => frameAddr w = a
  | .wrframe a d =>
    FrameMeets (encode (.wrframe a d)) 0x8000#16 0x0000#16 fun w => frameAddr w = a ∧ frameData w = d

/-- The word of a well-formed instruction meets its row and carries its operands. -/
def Statement (i : Instr) : Prop := WellFormed i = true → Meets i

theorem init (cfg : BitVec 9) : Statement (.init cfg) := fun _ =>
  ⟨_, rfl, configCommandOf_and 1#4 cfg, cfgiField_configCommandOf 1#4 cfg⟩

theorem select : Statement .select := fun _ => ⟨_, rfl, rfl, trivial⟩

theorem deselect : Statement .deselect := fun _ => ⟨_, rfl, rfl, trivial⟩

theorem xfer (d : Byte) : Statement (.xfer d) := fun _ =>
  ⟨_, rfl, commandOf_and_data 4#4 d, dataField_commandOf 4#4 0#7 d⟩

theorem rdreg (a : Nat) : Statement (.rdreg a) := fun h =>
  ⟨_, rfl, commandOf_and_address 5#4 _, (addrField_commandOf 5#4 _ 0#8).trans (addressBits_toNat h)⟩

theorem wrreg (a : Nat) (d : Byte) : Statement (.wrreg a d) := fun h =>
  ⟨_, rfl, commandOf_and 6#4 _ d, (addrField_commandOf 6#4 _ d).trans (addressBits_toNat h), dataField_commandOf 6#4 _ d⟩

theorem rdaxes (b : Nat) : Statement (.rdaxes b) := fun h =>
  ⟨_, rfl, commandOf_and_address 7#4 _, (addrField_commandOf 7#4 _ 0#8).trans (addressBits_toNat h)⟩

theorem rdframe (a : Nat) : Statement (.rdframe a) := fun h =>
  ⟨_, rfl, frameOf_and_read true _, (frameAddr_frameOf true _ 0#8).trans (addressBits_toNat h)⟩

theorem wrframe (a : Nat) (d : Byte) : Statement (.wrframe a d) := fun h =>
  ⟨_, rfl, frameOf_and false _ d, (frameAddr_frameOf false _ d).trans (addressBits_toNat h), frameData_frameOf false _ d⟩

end Sys2Proof.Laws.TableRow
end

