-- ==== Sys2Proof/Laws/Slave.lean ====
section
/-! SUPPORT. The ideal register-file slave (20_memory R67): what a trace and the sensor's own changes do to it. -/

namespace Sys2Proof.Machine

variable (sl : IdealSlave)

@[simp] theorem busEvents_map_bus (t : List BusEvent) : busEvents (t.map .bus) = t := by
  induction t with
  | nil => rfl
  | cons ev t ih => simp [busEvents, ih]

theorem busEvents_append (m n : List SlaveMove) : busEvents (m ++ n) = busEvents m ++ busEvents n := by
  induction m with
  | nil => rfl
  | cons x m ih => cases x <;> simp [busEvents, ih]

@[simp] theorem IdealSlave.afterMoves_nil : sl.afterMoves [] = sl := rfl

@[simp] theorem IdealSlave.afterMoves_cons (x : SlaveMove) (m : List SlaveMove) :
    sl.afterMoves (x :: m) = (sl.move x).afterMoves m := rfl

theorem IdealSlave.afterMoves_append (m n : List SlaveMove) :
    sl.afterMoves (m ++ n) = (sl.afterMoves m).afterMoves n := by simp [IdealSlave.afterMoves]

/-- The sensor changes registers and not the place in the frame. -/
@[simp] theorem IdealSlave.move_sensor_place (regs : Vector Byte 128) : (sl.move (.sensor regs)).place = sl.place := rfl

/-- Of moves the first part and then the rest must be explained. -/
theorem IdealSlave.explainsMoves_append (m n : List SlaveMove) :
    sl.explainsMoves (m ++ n) = (sl.explainsMoves m && (sl.afterMoves m).explainsMoves n) := by
  induction m generalizing sl with
  | nil => rfl
  | cons x m ih =>
    cases x with
    | bus ev => simp [IdealSlave.explainsMoves, ih, Bool.and_assoc, IdealSlave.move]
    | sensor regs => simp [IdealSlave.explainsMoves, ih]

/-- Moves with one event next: the sensor's changes before it, the event, and the rest. -/
theorem busEvents_eq_cons {moves : List SlaveMove} {ev : BusEvent} {rest : List BusEvent}
    (h : busEvents moves = ev :: rest) :
    ∃ pre post, moves = pre ++ .bus ev :: post ∧ busEvents pre = [] ∧ busEvents post = rest := by
  induction moves with
  | nil => simp [busEvents] at h
  | cons x m ih =>
    cases x with
    | bus e =>
      simp only [busEvents, List.cons.injEq] at h
      exact ⟨[], m, by simp [h.1], rfl, h.2⟩
    | sensor regs =>
      obtain ⟨pre, post, h1, h2, h3⟩ := ih h
      exact ⟨.sensor regs :: pre, post, by simp [h1], h2, h3⟩

/-- Changes of the sensor alone keep the place in the frame. -/
theorem IdealSlave.afterMoves_place_of_quiet {moves : List SlaveMove} (h : busEvents moves = []) :
    (sl.afterMoves moves).place = sl.place := by
  induction moves generalizing sl with
  | nil => rfl
  | cons x m ih =>
    cases x with
    | bus e => simp [busEvents] at h
    | sensor regs => rw [IdealSlave.afterMoves_cons, ih _ h, IdealSlave.move_sensor_place]

/-- A trace explained with the registers held still is one the slave could have answered. -/
theorem IdealSlave.couldAnswer_of_explains {t : List BusEvent} (h : sl.explains t = true) : sl.couldAnswer t :=
  ⟨t.map .bus, busEvents_map_bus t, h⟩

end Sys2Proof.Machine
end

