-- ==== Sys2Proof/Laws/Step.lean ====
section
/-! SUPPORT. Everything a step and an instruction that answers a next state can do, said once: the cases every invariant of the
machine goes through. -/

namespace Sys2Proof.Machine

/-! ### Instructions -/

/-- What the five micro-steps of INIT leave (R122). -/
theorem initialise_eq (s : State) (cfg : BitVec 9) : s.initialise cfg =
    { s with
      csn := .driven true, sck := .driven (cfg.getLsbD 1), sdo := .driven (Config.sdoAfterInit s.env.draws)
      cfg := configured cfg } := by
  rw [← configured_eq]
  rfl

/-- INIT answers a next state exactly from a disabled idle state with a legal configuration (R122 to R124). -/
theorem execInit_next {cfg : BitVec 9} {s t : State} :
    execInit cfg s = .next t ↔ s.seq = .idle ∧ s.enabled = false ∧ legalConfig cfg = true
      ∧ ((s.accept (commandWord (.init cfg)) .data).initialise cfg).retire = t := by
  unfold execInit State.busy
  by_cases h : s.seq = .idle <;> cases s.enabled <;> cases legalConfig cfg <;> simp [h]

theorem execSelect_next {s t : State} : execSelect s = .next t ↔ s.seq = .idle ∧ s.enabled = true
    ∧ (((s.accept (commandWord .select) .select).driveCsn false).emit .select).retire = t := whenEnabled_next

theorem execDeselect_next {s t : State} : execDeselect s = .next t ↔ s.seq = .idle ∧ s.enabled = true
    ∧ (((s.accept (commandWord .deselect) .deselect).driveCsn true).emit .deselect).retire = t := whenEnabled_next

theorem execXfer_next {d : Byte} {s t : State} : execXfer d s = .next t ↔ s.seq = .idle ∧ s.enabled = true
    ∧ (s.accept (commandWord (.xfer d)) .data).runXfer d = t := whenEnabled_next

theorem execRdreg_next {a : Nat} {s t : State} : execRdreg a s = .next t ↔ s.ready = true ∧ addressInRange a = true
    ∧ (s.accept (commandWord (.rdreg a)) .select).runRegister true a dummyByte = t := whenFrameFree_next

theorem execWrreg_next {a : Nat} {d : Byte} {s t : State} : execWrreg a d s = .next t ↔ s.ready = true
    ∧ addressInRange a = true ∧ (s.accept (commandWord (.wrreg a d)) .select).runRegister false a d = t :=
  whenFrameFree_next

theorem execRdaxes_next {b : Nat} {s t : State} : execRdaxes b s = .next t ↔ s.ready = true ∧ baseInRange b = true
    ∧ ((s.accept (commandWord (.rdaxes b)) .select).startAxes).runAxes b = t := whenFrameFree_next

theorem execRdframe_next {a : Nat} {s t : State} : execRdframe a s = .next t ↔ s.ready = true ∧ addressInRange a = true
    ∧ (s.accept (commandWord (.rdframe a)) .select).runRegister true a dummyByte = t := whenFrameFree_next

theorem execWrframe_next {a : Nat} {d : Byte} {s t : State} : execWrframe a d s = .next t ↔ s.ready = true
    ∧ addressInRange a = true ∧ (s.accept (commandWord (.wrframe a d)) .select).runRegister false a d = t :=
  whenFrameFree_next

/-! ### The read port -/

/-- HostRead answers a next state for every register there is (R28): what it holds, or some value with the fault recorded
(R215). -/
theorem hostRead_next {n : Fin 16} {s t : State} : hostRead n s = .next t ↔
    (∃ v, s.portRegister n = .value v ∧ { s with hostData := some v } = t)
      ∨ (s.portRegister n = .noValue ∧ { s.recordUnwritten with hostData := some (s.unwrittenPortValue n) } = t) := by
  unfold hostRead
  cases s.portRegister n <;> simp

/-! ### A running command -/

/-- A command that waits as a run leaves it goes on from the very state it waits in. -/
theorem readable_eq {s : State} (h : s.holdsWhatItReads = true) : s.readable = s := by simp [State.readable, h]

/-- Going on touches nothing but what a register without a value shows and the record of it (R215). -/
theorem readable_eq_or (s : State) : s.readable = s ∨ s.readable = s.fillUnwritten.recordUnwritten := by
  unfold State.readable; split <;> simp

/-- A waiting command answers a next state only by going on as the command in CMDR (R216). -/
theorem continueCommand_next {s t : State} (h : s.continueCommand = .next t) :
    (∃ d, decodeCommand s.readable.cmdr = .ok (.xfer d) ∧ t = s.readable.runXfer d)
      ∨ (∃ a, decodeCommand s.readable.cmdr = .ok (.rdreg a) ∧ t = s.readable.runRegister true a dummyByte)
      ∨ (∃ a d, decodeCommand s.readable.cmdr = .ok (.wrreg a d) ∧ t = s.readable.runRegister false a d)
      ∨ ∃ b, decodeCommand s.readable.cmdr = .ok (.rdaxes b) ∧ t = s.readable.runAxes b := by
  unfold State.continueCommand at h
  split at h
  · rename_i d hd; cases h; exact .inl ⟨d, hd, rfl⟩
  · rename_i a hd; cases h; exact .inr (.inl ⟨a, hd, rfl⟩)
  · rename_i a d hd; cases h; exact .inr (.inr (.inl ⟨a, d, hd, rfl⟩))
  · rename_i b hd; cases h; exact .inr (.inr (.inr ⟨b, hd, rfl⟩))
  · cases h

/-- A step while a command runs: the clock comes back, or the command goes on (R216). -/
theorem resume_next {s t : State} (h : s.resume = .next t) :
    (s.waiting = true ∧ ∃ c later, s.env.clockLater = c :: later
      ∧ t = { s with env := { s.env with clock := c, clockLater := later } })
    ∨ (s.waiting = false ∧ s.continueCommand = .next t) := by
  unfold State.resume at h
  split at h
  · rename_i hw
    split at h
    · cases h
    · rename_i c later hl; cases h; exact .inl ⟨hw, c, later, hl, rfl⟩
  · rename_i hw; exact .inr ⟨by simpa using hw, h⟩

/-! ### Steps -/

/-- Everything a step that answers a next state can be. -/
theorem step_next {s t : State} (h : step s = .next t) :
    (s.seq ≠ .idle ∧ s.resume = .next t)
    ∨ (s.seq = .idle ∧ s.env.program = [] ∧ t = s)
    ∨ (s.seq = .idle ∧ ∃ rest, s.env.program = .pause :: rest ∧ t = s.withProgram rest)
    ∨ (s.seq = .idle ∧ ∃ n rest, s.env.program = .read n :: rest ∧ hostRead n (s.withProgram rest) = .next t)
    ∨ (s.seq = .idle ∧ ∃ c rest i, s.env.program = .present c :: rest ∧ decode c = .ok i
      ∧ exec i (s.withProgram rest) = .next t) := by
  unfold step at h
  split at h
  · rename_i hb; exact .inl ⟨(busy_iff s).mp hb, h⟩
  · rename_i hb
    have hi : s.seq = .idle := by
      by_contra hn; exact hb ((busy_iff s).mpr hn)
    split at h
    · rename_i hp; cases h; exact .inr (.inl ⟨hi, hp, rfl⟩)
    · rename_i rest hp; cases h; exact .inr (.inr (.inl ⟨hi, rest, hp, rfl⟩))
    · rename_i n rest hp; exact .inr (.inr (.inr (.inl ⟨hi, n, rest, hp, h⟩)))
    · rename_i c rest hp
      split at h
      · rename_i i hd; exact .inr (.inr (.inr (.inr ⟨hi, c, rest, i, hp, hd, h⟩)))
      · cases h

/-- The step of an idle machine whose next request is a word (R226). -/
theorem step_present {s : State} {c : CodeWord} {rest : List HostRequest} (hi : s.seq = .idle)
    (hp : s.env.program = .present c :: rest) :
    step s = match decode c with
      | .ok i => exec i (s.withProgram rest)
      | .error _ => .refused .reservedEncoding := by
  have hb : s.busy = false := by simp [State.busy, hi]
  unfold step
  rw [hb, hp]
  rfl

end Sys2Proof.Machine
end

