-- ==== Sys2Proof/Tests/Slice0.lean ====
section
/-! SUPPORT. Tests on fixed values from spec/95_test_vectors.md and spec/30_encoding.md, and for every statement with
hypotheses a named state and operands that meet them. -/

namespace Sys2Proof.Tests

open Sys2Proof Sys2Proof.Machine

/-! ### Helpers -/

/-- `READY(c)` of 95_test_vectors, SDO at 0, the slave's answers fixed beforehand. -/
def readyState (cfg : BitVec 9) (answers : List Byte) : State :=
  { State.reset with
    cfg := configured cfg, csn := .driven true, sck := .driven (cfg.getLsbD 1), sdo := .driven false
    cmdr := 0x10000000#32 ||| cfg.setWidth 32, held := { State.reset.held with cmdr := true }
    env := { State.reset.env with answers := answers } }

/-- `READY(0x010)` followed by SELECT. -/
def openState : State := { readyState 0x010#9 [] with csn := .driven false, trace := [.select] }

/-- What `f` sees of a next state. -/
def view {α : Type} (r : Result) (f : State → α) : Option α :=
  match r with
  | .next t => some (f t)
  | _ => none

/-- The outcome is a next state in which `p` holds. -/
def passes (r : Result) (p : State → Bool) : Bool :=
  match r with
  | .next t => p t
  | _ => false

/-- The reason of a refusal. -/
def reason : Result → Option Refusal
  | .refused r => some r
  | _ => none

/-- A state whose host presents the word `w` next. -/
def presenting (s : State) (w : CommandWord) : State := s.withProgram [.present (.command w)]

/-! ### WellFormed: an ill-formed term for each check -/

theorem test_wf_rdreg : WellFormed (.rdreg 127) = true ∧ WellFormed (.rdreg 128) = false := by decide
theorem test_wf_wrreg : WellFormed (.wrreg 127 0#8) = true ∧ WellFormed (.wrreg 128 0#8) = false := by decide
theorem test_wf_rdaxes : WellFormed (.rdaxes 127) = true ∧ WellFormed (.rdaxes 128) = false := by decide
theorem test_wf_rdframe : WellFormed (.rdframe 127) = true ∧ WellFormed (.rdframe 128) = false := by decide
theorem test_wf_wrframe : WellFormed (.wrframe 127 0#8) = true ∧ WellFormed (.wrframe 128 0#8) = false := by decide

/-! ### Decoding: words written out from R91, R96 to R100 (vectors E1 to E29, S7) -/

/-- E3: OP 0001, bits 27:9 zero, PRESC 011, CSMODE 0, MSTR 1, DUPLEX 0, LSBFIRST 0, CPOL 1, CPHA 1. -/
theorem test_decode_init :
    decode (.command 0b0001_0000000000000000000_011_0_1_0_0_1_1#32) = .ok (.init 0x0D3#9) := by decide
/-- E5: OP 0010, bits 27:0 zero. -/
theorem test_decode_select : decode (.command 0b0010_0000000000000000000000000000#32) = .ok .select := by decide
/-- E6: OP 0011, bits 27:0 zero. -/
theorem test_decode_deselect : decode (.command 0b0011_0000000000000000000000000000#32) = .ok .deselect := by decide
/-- E7: OP 0100, bits 27:8 zero, DATA 1000 1111. -/
theorem test_decode_xfer : decode (.command 0b0100_00000000000000000000_10001111#32) = .ok (.xfer 0x8F#8) := by decide
/-- E10 and E12: OP 0101, bits 27:15 zero, ADDR, bits 7:0 zero. -/
theorem test_decode_rdreg :
    decode (.command 0b0101_0000000000000_0001111_00000000#32) = .ok (.rdreg 15)
      ∧ decode (.command 0b0101_0000000000000_1111111_00000000#32) = .ok (.rdreg 127) := by decide
/-- E14 and E15: OP 0110, bits 27:15 zero, ADDR, DATA. -/
theorem test_decode_wrreg :
    decode (.command 0b0110_0000000000000_0100000_00001111#32) = .ok (.wrreg 32 0x0F#8)
      ∧ decode (.command 0b0110_0000000000000_1111111_11111111#32) = .ok (.wrreg 127 0xFF#8) := by decide
/-- E17 and E19: OP 0111, bits 27:15 zero, ADDR, bits 7:0 zero; a base above 122 decodes. -/
theorem test_decode_rdaxes :
    decode (.command 0b0111_0000000000000_0101000_00000000#32) = .ok (.rdaxes 40)
      ∧ decode (.command 0b0111_0000000000000_1111011_00000000#32) = .ok (.rdaxes 123) := by decide
/-- S7, R91: RW 1, ADDR 0001111, dummy byte 0. -/
theorem test_decode_rdframe : decode (.frame 0b1_0001111_00000000#16) = .ok (.rdframe 15) := by decide
/-- S7, R91: RW 0, ADDR 0100000, DATA 1000 1111. -/
theorem test_decode_wrframe : decode (.frame 0b0_0100000_10001111#16) = .ok (.wrframe 32 0x8F#8) := by decide

/-- E20 to E22: opcodes 0, 8 and F. -/
theorem test_decode_reserved_opcode :
    decode (.command 0x00000000#32) = .error .reservedOpcode ∧ decode (.command 0x80000000#32) = .error .reservedOpcode
      ∧ decode (.command 0xFFFFFFFF#32) = .error .reservedOpcode := by decide
/-- E23 to E28: a 1 in a bit that must be 0. -/
theorem test_decode_must_be_zero :
    decode (.command 0x20000001#32) = .error .mustBeZero ∧ decode (.command 0x40000100#32) = .error .mustBeZero
      ∧ decode (.command 0x50008F00#32) = .error .mustBeZero ∧ decode (.command 0x50000F01#32) = .error .mustBeZero
      ∧ decode (.command 0x10000210#32) = .error .mustBeZero
      ∧ decode (.command 0x61000F0F#32) = .error .mustBeZero := by decide
/-- R93: the framer never puts a read frame with another second byte on the bus. -/
theorem test_decode_read_frame_dummy : decode (.frame 0x8F01#16) = .error .dummyNotZero := by decide

/-- The words of the table's own text, through the interface the host uses. -/
theorem test_table_words :
    decodeTableWord 32 0x6000200F = some (.wrreg 32 0x0F#8) ∧ decodeTableWord 16 0x8F00 = some (.rdframe 15)
      ∧ decodeTableWord 32 0x80000000 = none := by decide

/-! ### Assembler text (R104, vectors E2, E3, E14) -/

theorem test_assemble_init : assembleLine "INIT CPOL=1, CPHA=1, PRESC=3".toList = some (.init 0x0D3#9) := by decide
theorem test_assemble_wrreg : assembleLine "WRREG 0x20, 0x0F ; comment".toList = some (.wrreg 32 0x0F#8) := by decide

/-! ### One step each, by the vectors of 95_test_vectors -/

/-- B2: INIT from reset. -/
theorem test_init : passes (exec (.init 0x013#9) State.reset) (fun t =>
    decide (t.cfg = 0x8013#16) && decide (t.csn = .driven true) && decide (t.sck = .driven true)
      && decide (t.cmdr = 0x10000013#32) && decide (t.trace = []) && decide (t.stat = 0x0000#16)) = true := by decide
/-- R125: after two micro-steps of INIT CSN is high and the bus pins are still released; after four SCK is idle and EN is
0. -/
theorem test_init_steps :
    ((State.reset.initSteps 0x013#9 2).csn, (State.reset.initSteps 0x013#9 2).sck, (State.reset.initSteps 0x013#9 2).sdo,
      (State.reset.initSteps 0x013#9 4).sck, (State.reset.initSteps 0x013#9 4).cfg)
      = (.driven true, .released, .released, .driven true, 0x0013#16) := by decide
/-- X4 to X7. -/
theorem test_init_refused : reason (exec (.init 0x013#9) (readyState 0x010#9 [])) = some .alreadyInitialized
    ∧ reason (exec (.init 0x000#9) State.reset) = some .reservedConfig
    ∧ reason (exec (.init 0x018#9) State.reset) = some .reservedConfig
    ∧ reason (exec (.init 0x030#9) State.reset) = some .reservedConfig := by decide
/-- B8: SELECT while CSN is 0. -/
theorem test_select : view (exec .select openState) (fun t => (t.csn, t.trace, t.cmdr, t.seq)) =
    some (.driven false, [.select, .select], 0x20000000#32, .idle) := by decide
/-- B10: DESELECT while CSN is 1. -/
theorem test_deselect : view (exec .deselect (readyState 0x010#9 [])) (fun t => (t.csn, t.trace, t.cmdr, t.seq)) =
    some (.driven true, [.deselect], 0x30000000#32, .idle) := by decide
/-- B13: XFER under INIT 0x1D7; LSBFIRST reorders bits on the wire only. -/
theorem test_xfer : passes (exec (.xfer 0x8F#8) (readyState 0x1D7#9 [0xD4#8])) (fun t =>
    decide (t.txsr = 0x8F#8) && decide (t.rxsr = 0xD4#8) && decide (t.rxd = 0xD4#8) && decide (t.stat = 0x0001#16)
      && decide (t.trace = [.send 0x8F#8 0xD4#8]) && decide (t.sck = .driven true) && decide (t.csn = .driven true)) = true := by decide
/-- W5: the clock stops after edge 5. -/
theorem test_xfer_cut : passes (exec (.xfer 0x8F#8) ((readyState 0x010#9 [0xD4#8]).withClock (some 5) [])) (fun t =>
    decide (t.edge = 5) && decide (t.sck = .driven true) && decide (t.sdo = .driven false)
      && decide (t.rxsr = 0xC0#8) && decide (t.held.rxsr = 0xE0#8) && decide (t.tc = false)
      && decide (t.held.rxd = false) && decide (t.trace = [])) = true := by decide
/-- F1: RDREG. -/
theorem test_rdreg : passes (exec (.rdreg 0x0F) (readyState 0x010#9 [0x55#8, 0xD4#8])) (fun t =>
    decide (t.trace = [.select, .send 0x8F#8 0x55#8, .send 0x00#8 0xD4#8, .deselect]) && decide (t.rxd = 0xD4#8)
      && decide (t.txsr = 0x00#8) && decide (t.stat = 0x0001#16) && decide (t.csn = .driven true)
      && decide (t.seq = .idle) && decide (t.cmdr = 0x50000F00#32)) = true := by decide
/-- P5: the clock stops after the address byte. -/
theorem test_rdreg_cut : passes (exec (.rdreg 0x0F) ((readyState 0x010#9 [0x55#8]).withClock (some 16) [])) (fun t =>
    decide (t.seq = .data) && decide (t.csn = .driven false) && decide (t.trace = [.select, .send 0x8F#8 0x55#8])
      && decide (t.rxd = 0x55#8) && decide (t.txsr = 0x00#8) && decide (t.edge = 0)
      && decide (t.sdo = .driven false) && decide (t.stat = 0x0000#16)) = true := by decide
/-- F5: WRREG with bit 7 of the value set. -/
theorem test_wrreg : view (exec (.wrreg 0x20 0x8F#8) (readyState 0x010#9 [0x01#8, 0x02#8]))
    (fun t => (t.trace, t.rxd, t.txsr, t.cmdr)) =
      some ([.select, .send 0x20#8 0x01#8, .send 0x8F#8 0x02#8, .deselect], 0x02#8, 0x8F#8, 0x6000208F#32) := by decide
/-- X9. -/
theorem test_wrreg_open : reason (exec (.wrreg 0x0F 0x0F#8) openState) = some .frameOpen := by decide
set_option maxRecDepth 4000 in
/-- F8: RDAXES at 0x28. -/
theorem test_rdaxes : passes (exec (.rdaxes 0x28) (readyState 0x013#9
      [0x70#8, 0x34#8, 0x71#8, 0x12#8, 0x72#8, 0xFE#8, 0x73#8, 0xFF#8, 0x74#8, 0x00#8, 0x75#8, 0x80#8])) (fun t =>
    decide (t.axis = ⟨0x1234#16, 0xFFFE#16, 0x8000#16⟩) && decide (t.lob = 0x00#8) && decide (t.rxd = 0x80#8)
      && decide (t.ai = .z) && decide (t.hl = false) && decide (t.trace.length = 24)
      && decide (t.trace[9]? = some (.send 0xAA#8 0x72#8))) = true := by decide
set_option maxRecDepth 4000 in
/-- F13: the clock stops after the seventh transfer. -/
theorem test_rdaxes_cut : passes (exec (.rdaxes 0x28) ((readyState 0x010#9
      [0x70#8, 0x34#8, 0x71#8, 0x12#8, 0x72#8, 0xFE#8, 0x73#8]).withClock (some 112) [])) (fun t =>
    decide (t.seq = .data) && decide (t.csn = .driven false) && decide (t.ai = .y) && decide (t.hl = true)
      && decide (t.axis.x = 0x1234#16) && decide (t.held.axis = ⟨true, false, false⟩) && decide (t.lob = 0xFE#8)
      && decide (t.rxd = 0x73#8) && decide (t.trace.length = 14)) = true := by decide
/-- S6's read frame: the bytes 0x8F, 0x00. -/
theorem test_rdframe : view (exec (.rdframe 0x0F) (readyState 0x010#9 [0x55#8, 0xD4#8]))
    (fun t => (t.trace, t.rxd, t.seq)) =
      some ([.select, .send 0x8F#8 0x55#8, .send 0x00#8 0xD4#8, .deselect], 0xD4#8, .idle) := by decide
/-- S6's write frame: the bytes 0x0F, 0x0F. -/
theorem test_wrframe : view (exec (.wrframe 0x0F 0x0F#8) (readyState 0x010#9 [0x01#8, 0x02#8]))
    (fun t => (t.trace, t.rxd, t.seq)) =
      some ([.select, .send 0x0F#8 0x01#8, .send 0x0F#8 0x02#8, .deselect], 0x02#8, .idle) := by decide

/-- X16 and X18: a read of a register that holds no value is recorded as UnwrittenRead, and the bits that are not the
register's are 0. -/
theorem test_host_read_unwritten :
    view (hostRead 2 (readyState 0x010#9 [])) State.unwrittenReads = some 1
      ∧ view (hostRead 0 State.reset) State.unwrittenReads = some 1
      ∧ view (hostRead 0 State.reset) State.enabled = some false := by decide
/-- X19, X20, X23: the read port. -/
theorem test_host_read :
    view (hostRead 1 State.reset) State.hostData = some (some 0x0000#16)
      ∧ view (hostRead 0 (readyState 0x010#9 [])) (fun t => (t.hostData, t.unwrittenReads)) = some (some 0x8010#16, 0)
      ∧ reason (hostRead 6 State.reset) = some .noSuchRegister := by decide
/-- X8, X12, X13, X14, X15: the order of refusals, through `step`. -/
theorem test_refusal_order :
    reason (step (presenting State.reset 0x50008F00#32)) = some .reservedEncoding
      ∧ reason (step (presenting State.reset 0x70007B00#32)) = some .notInitialized
      ∧ reason (step (presenting (readyState 0x010#9 []) 0x10000000#32)) = some .alreadyInitialized
      ∧ reason (step (presenting openState 0x70007B00#32)) = some .frameOpen
      ∧ reason (step (presenting (readyState 0x010#9 []) 0x70007B00#32)) = some .addressRange := by decide
/-- W1, edges 9 and 10 of `XFER 0x8F` with CPOL = CPHA = 1. -/
theorem test_edges_w1 :
    ((((readyState 0x013#9 [0xD4#8]).startTransfer 0x8F#8).edges 9).sck,
      (((readyState 0x013#9 [0xD4#8]).startTransfer 0x8F#8).edges 9).sdo,
      (((readyState 0x013#9 [0xD4#8]).startTransfer 0x8F#8).edges 10).rxsr)
      = (.driven false, .driven true, 0xD0#8) := by decide
/-- W3, edges 8 and 9 of `XFER 0x8F` with CPOL = LSBFIRST = 1. -/
theorem test_edges_w3 :
    ((((readyState 0x016#9 [0xD4#8]).startTransfer 0x8F#8).edges 8).sck,
      (((readyState 0x016#9 [0xD4#8]).startTransfer 0x8F#8).edges 8).sdo,
      (((readyState 0x016#9 [0xD4#8]).startTransfer 0x8F#8).edges 9).rxsr)
      = (.driven true, .driven false, 0x14#8) := by decide
/-- H4, H5, H9. -/
theorem test_header : header false 0x00 = 0x00#8 ∧ header true 0x7F = 0xFF#8 ∧ header true 0x40 = 0xC0#8 := by decide
/-- A4, A7, A11. -/
theorem test_sample : toInt16 (sample 0x00#8 0x80#8) = -32768 ∧ sample 0x80#8 0x12#8 = 0x1280#16
    ∧ toInt16 (sample 0x12#8 0x34#8) = 13330 := by decide
/-- M1: the ideal slave answers a read with its register. -/
theorem test_ideal_slave :
    (((IdealSlave.mk ((Vector.replicate 128 0#8).set 0x0F 0xD4#8) .outside).after [.select, .send 0x8F#8 0x00#8]).answer)
      = some 0xD4#8 := by decide

/-- M1's read when the sensor changes the register after the header (R67): the answer is the register as it stands. -/
theorem test_ideal_slave_changed :
    (((IdealSlave.mk (Vector.replicate 128 0x00#8) .outside).afterMoves
        [.bus .select, .bus (.send 0x8F#8 0x00#8), .sensor (Vector.replicate 128 0x2B#8)]).answer) = some 0x2B#8 := by decide

/-! ### Witnesses: the hypotheses of the statements can be met -/

/-- The invariant at a ready state. -/
theorem inv_readyState (cfg : BitVec 9) (h : legalConfig cfg = true) (h1 : configured cfg &&& ~~~cfgFields = 0#16)
    (h2 : (configured cfg).extractLsb' 0 9 = cfg) (h3 : (configured cfg).getLsbD 15 = true)
    (h4 : (configured cfg).getLsbD 1 = cfg.getLsbD 1) : Inv (readyState cfg []) where
  cfgReserved := h1
  statReserved := by simp [readyState, State.reset]
  legal := fun _ => by show legalConfig ((configured cfg).extractLsb' 0 9) = true; rw [h2]; exact h
  offline := fun h => by have : (configured cfg).getLsbD 15 = false := h; rw [h3] at this; cases this
  online := fun _ => ⟨by simp [readyState], by simp [readyState]⟩
  sckIdle := fun _ _ => by show Pin.driven (cfg.getLsbD 1) = .driven ((configured cfg).getLsbD 1); rw [h4]
  sckShifting := fun _ h => by cases h
  edgeBound := Nat.zero_le _
  atRest := fun _ => ⟨rfl, rfl⟩
  atWork := fun h => absurd rfl h
  tcHolds := fun h => by simp [State.tc, readyState, State.reset] at h

theorem witness_ResetIsQuietUntilInit :
    ∃ t, step (State.reset.withProgram (.present (.command 0x10000010#32) :: [])) = .next t := ⟨_, rfl⟩
theorem witness_DecodeAndEncodeAreInverse :
    WellFormed (.rdreg 127) = true ∧ decode (.frame 0x8F00#16) = .ok (.rdframe 15) := by decide
theorem witness_ReservedWordsAreRefused :
    ((presenting State.reset 0x00000000#32).seq = .idle ∧ reservedWord 0x00000000#32 = true)
      ∧ (presenting State.reset 0x10000010#32).seq = .idle ∧ reservedWord 0x10000010#32 = false := by decide
theorem witness_StepRunsTheDecodedInstruction :
    (presenting State.reset 0x20000000#32).seq = .idle
      ∧ (presenting State.reset 0x20000000#32).env.program = [.present (.command 0x20000000#32)]
      ∧ decode (.command 0x20000000#32) = .ok .select := by decide
theorem witness_IdleTimeChangesNothing :
    (State.reset.withProgram [.pause]).seq = .idle ∧ (State.reset.withProgram [.pause]).env.program = [.pause]
      ∧ State.reset.env.program = [] := by decide
theorem witness_HostReadGivesTheNumberedRegister :
    (State.reset.withProgram [.read 6]).seq = .idle ∧ 6 ≤ (6 : Fin 16).val ∧ 6 ≤ (15 : Fin 16).val
      ∧ (readyState 0x010#9 []).enabled = true
      ∧ passes (exec (.rdaxes 0) (readyState 0x010#9 (List.replicate 12 0x01#8)))
          (fun t => t.held.rxd && t.held.axis.x && t.held.axis.y && t.held.axis.z) = true := by decide
/-- Each clause holds after reset, and a step that records the fault is one that answers next. -/
theorem witness_HostReadOfAValuelessRegisterIsRecorded :
    ((State.reset.withProgram [.read 0]).seq = .idle ∧ (State.reset.withProgram [.read 0]).env.program = [.read 0]
        ∧ State.reset.enabled = false ∧ State.reset.held.rxd = false ∧ State.reset.held.axis = ⟨false, false, false⟩)
      ∧ view (step (State.reset.withProgram [.read 5])) State.unwrittenReads = some 1 := by decide
theorem witness_InitConfiguresAndEnables :
    State.reset.seq = .idle ∧ State.reset.enabled = false
      ∧ (BitVec.getLsbD 0x010#9 3 = false ∧ BitVec.getLsbD 0x010#9 4 = true ∧ BitVec.getLsbD 0x010#9 5 = false)
      ∧ BitVec.getLsbD 0x1D7#9 3 = false ∧ BitVec.getLsbD 0x1D7#9 4 = true ∧ BitVec.getLsbD 0x1D7#9 5 = false := by decide
theorem witness_InitDrivesChipSelectBeforeTheBusPins :
    State.reset.enabled = false ∧ 0 ≤ 5 ∧ 2 < 3 ∧ 4 ≤ 4 ∧ 5 ≤ 5 ∧ State.reset.seq = .idle ∧ legalConfig 0x1D7#9 = true := by
  decide
theorem witness_SecondInitIsRefused :
    (readyState 0x010#9 []).seq = .idle ∧ (readyState 0x010#9 []).enabled = true := by decide
theorem witness_ReservedConfigurationIsRefused : State.reset.seq = .idle ∧ State.reset.enabled = false := by decide
theorem witness_CommandsBeforeInitAreRefused :
    State.reset.seq = .idle ∧ State.reset.enabled = false ∧ ∀ cfg, Instr.select ≠ .init cfg :=
  ⟨rfl, rfl, fun _ h => by cases h⟩
theorem witness_TheAcceptedCommandIsInCmdr :
    (∃ t, exec (.rdframe 127) (readyState 0x010#9 []) = .next t) ∧ WellFormed (.rdframe 127) = true
      ∧ (∃ t, exec .select openState = .next t) ∧ encode .select = .command 0x20000000#32 :=
  ⟨⟨_, rfl⟩, rfl, ⟨_, rfl⟩, rfl⟩
theorem witness_SelectDrivesChipSelectLow : openState.seq = .idle ∧ openState.enabled = true := by decide
theorem witness_DeselectDrivesChipSelectHigh :
    (readyState 0x010#9 []).seq = .idle ∧ (readyState 0x010#9 []).enabled = true := by decide
theorem witness_XferExchangesOneByte :
    openState.seq = .idle ∧ openState.enabled = true ∧ openState.env.clockCovers 16 = true
      ∧ (openState.withClock (some 16) []).env.clockCovers 16 = true
      ∧ (openState.withClock (some 15) []).env.clock = some 15 ∧ 15 < 16 := by decide
theorem witness_XferWithoutClockNeverRetires :
    openState.seq = .idle ∧ openState.enabled = true ∧ 0 < 16 ∧ 15 < 16 := by decide
theorem witness_RdregReadsOneRegister :
    0 ≤ 127 ∧ 127 ≤ 127 ∧ (readyState 0x010#9 []).ready = true
      ∧ ((readyState 0x010#9 []).withClock (some 32) []).env.clockCovers 32 = true := by decide
theorem witness_WrregWritesOneRegister :
    0 ≤ 127 ∧ 127 ≤ 127 ∧ (readyState 0x1D7#9 []).ready = true
      ∧ ((readyState 0x1D7#9 []).withClock (some 32) []).env.clockCovers 32 = true := by decide
theorem witness_RdaxesAssemblesThreeSamples :
    0 + 5 ≤ 127 ∧ 122 + 5 ≤ 127 ∧ (readyState 0x013#9 []).ready = true
      ∧ ((readyState 0x013#9 []).withClock (some 192) []).env.clockCovers 192 = true := by decide
theorem witness_ARetiredCommandHasUsedItsAnswersAndEdges :
    passes (exec (.rdaxes 0) (readyState 0x010#9 (List.replicate 12 0x01#8))) (fun t => decide (t.seq = .idle)) = true
      ∧ passes (exec .select openState) (fun t => decide (t.seq = .idle)) = true := by decide
theorem witness_WireFramePutsItsBytesOnTheBus :
    127 ≤ 127 ∧ (readyState 0x010#9 []).ready = true ∧ (readyState 0x010#9 []).env.clockCovers 32 = true := by decide
theorem witness_OpenFrameIsRefused :
    openState.seq = .idle ∧ openState.enabled = true ∧ openState.csn = .driven false
      ∧ runsTransaction (.rdreg 15) = true ∧ runsTransaction (.wrframe 15 0#8) = true
      ∧ (readyState 0x010#9 []).seq = .idle ∧ (readyState 0x010#9 []).enabled = true
      ∧ (readyState 0x010#9 []).csn = .driven true ∧ isFramerCommand (.rdaxes 122) = true := by decide
/-- The address 128, which no word encodes, is out of range as a term. -/
theorem witness_AddressesOutOfRangeAreRefused :
    (readyState 0x010#9 []).ready = true ∧ reason (exec (.rdframe 128) (readyState 0x010#9 [])) = some .addressRange
      ∧ reason (exec (.wrframe 128 0#8) (readyState 0x010#9 [])) = some .addressRange := by decide
/-- One witness a clause of R213: no command, not initialised, initialised, a reserved configuration, an open frame, a base
out of range. -/
theorem witness_TheFirstRefusalIsReported :
    (decode (.command 0x50008F00#32)).toOption = none
      ∧ (State.reset.enabled = false ∧ decode (.command 0x70007B00#32) = .ok (.rdaxes 123))
      ∧ ((readyState 0x010#9 []).enabled = true ∧ decode (.command 0x10000000#32) = .ok (.init 0x000#9))
      ∧ (State.reset.enabled = false ∧ legalConfig 0x000#9 = false)
      ∧ (openState.enabled = true ∧ openState.csn = .driven false ∧ runsTransaction (.rdaxes 123) = true)
      ∧ ((readyState 0x010#9 []).csn = .driven true ∧ 122 < 123) := by decide
/-- All four instructions; the clock stops in the header byte and in the data byte. -/
theorem witness_CutRegisterCommandLeavesItsFrameOpen :
    (readyState 0x010#9 []).ready = true ∧ 127 ≤ 127 ∧ 0 < 32 ∧ 15 < 16 ∧ 16 ≤ 16 ∧ 31 < 32
      ∧ (true = true ∧ (Instr.rdframe 127 = .rdreg 127 ∨ Instr.rdframe 127 = .rdframe 127))
      ∧ (false = false ∧ (Instr.wrframe 127 0xFF#8 = .wrreg 127 0xFF#8 ∨ Instr.wrframe 127 0xFF#8 = .wrframe 127 0xFF#8)) := by
  decide
theorem witness_CutRdaxesKeepsTheFinishedAxes :
    (readyState 0x010#9 []).ready = true ∧ 122 + 5 ≤ 127 ∧ 0 < 192 ∧ 191 < 192 ∧ 64 * (Axis.x.index + 1) ≤ 64
      ∧ ¬ 64 * (Axis.x.index + 1) ≤ 63 := by decide
/-- XFER waits after 5 edges; the clock comes back for good, or for the 11 edges that are left. -/
theorem witness_AWaitingCommandGoesOnWhereItStood :
    Inv (readyState 0x010#9 []) ∧ (readyState 0x010#9 []).seq = .idle
      ∧ (∃ v, exec (.xfer 0x8F#8) ((readyState 0x010#9 []).withClock none []) = .next v) ∧ 5 < edgesNeeded (.xfer 0x8F#8)
      ∧ (∀ b, (none : Option Nat) = some b → 16 ≤ 5 + b) ∧ ∀ b, some 11 = some b → 16 ≤ 5 + b :=
  ⟨inv_readyState _ (by decide) (by decide) (by decide) (by decide) (by decide), rfl, ⟨_, rfl⟩, by decide,
    fun _ h => (nomatch h), fun b h => by injection h with h; omega⟩
theorem witness_FramerCommandsKeepTheTraceRegisterFramed :
    (readyState 0x010#9 []).ready = true ∧ (readyState 0x010#9 []).env.clock = none
      ∧ (∀ i ∈ [Instr.rdreg 127, .wrreg 0 0#8, .rdaxes 122], isFramerCommand i = true)
      ∧ registerFramed (readyState 0x010#9 []).trace = true := by decide
theorem witness_AHandBuiltFrameEqualsTheRegisterCommand :
    (readyState 0x010#9 []).ready = true ∧ (readyState 0x010#9 []).env.clockCovers 32 = true
      ∧ ∃ a v, Instr.wrreg 127 0xFF#8 = .wrreg a v ∧ a ≤ 127 := ⟨by decide, by decide, 127, 0xFF#8, rfl, by decide⟩
theorem witness_SixRegisterReadsEqualRdaxesButForTheSamples :
    (readyState 0x010#9 []).ready = true ∧ (readyState 0x010#9 []).env.clockCovers 192 = true ∧ 122 + 5 ≤ 127 := by decide
theorem witness_RegisterCommandsAgreeWithTheTransferGranularity :
    (readyState 0x010#9 []).ready = true ∧ (readyState 0x010#9 []).env.clock = none ∧ 127 ≤ 127 := by decide
theorem witness_RdaxesAgreesWithTheTransferGranularity :
    (readyState 0x010#9 []).ready = true ∧ (readyState 0x010#9 []).env.clock = none ∧ 122 + 5 ≤ 127 := by decide
/-- The first and the last leading and trailing edge, and the two reasons for which no edge step is enabled. -/
theorem witness_EdgeStepsFollowPolarityPhaseAndBitOrder :
    (∀ n ∈ [0, 1, 14, 15, 16], (((readyState 0x010#9 [0xD4#8]).startTransfer 0x8F#8).edges n).shifting = true
        ∧ (((readyState 0x010#9 [0xD4#8]).startTransfer 0x8F#8).edges n).enabled = true
        ∧ (((readyState 0x010#9 [0xD4#8]).startTransfer 0x8F#8).edges n).env.clockRunning = true
        ∧ (((readyState 0x010#9 [0xD4#8]).startTransfer 0x8F#8).edges n).edge = n)
      ∧ (((readyState 0x010#9 []).withClock (some 0) []).startTransfer 0x8F#8).env.clockRunning = false := by decide
theorem witness_CompletionLoadsRxdAndSetsTc :
    (((readyState 0x010#9 [0xD4#8]).startTransfer 0x8F#8).edges 16).shifting = true
      ∧ (((readyState 0x010#9 [0xD4#8]).startTransfer 0x8F#8).edges 16).edge = 16
      ∧ (((readyState 0x010#9 [0xD4#8]).startTransfer 0x8F#8).edges 15).shifting = true
      ∧ (((readyState 0x010#9 [0xD4#8]).startTransfer 0x8F#8).edges 15).edge ≠ 16 := by decide
/-- A sampling edge and one that is none, the first and the last. -/
theorem witness_RxsrIsFilledOneBitPerCell :
    (readyState 0x013#9 []).enabled = true ∧ (readyState 0x013#9 []).env.clockCovers 16 = true ∧ 0 < 16 ∧ 15 < 16
      ∧ decide (0 % 2 = 1) ≠ (readyState 0x013#9 []).cpha ∧ decide (15 % 2 = 1) = (readyState 0x013#9 []).cpha
      ∧ 0 ≠ (if (readyState 0x013#9 []).lsbFirst then 0 / 2 else 7 - 0 / 2) := by decide
theorem witness_TheClockLeavesItsIdleLevelOnOddEdges :
    (readyState 0x013#9 []).enabled = true ∧ (readyState 0x013#9 []).env.clockCovers 16 = true ∧ 1 ≤ 1 ∧ 16 ≤ 16 := by decide
theorem witness_EachCellCarriesItsBit :
    (readyState 0x013#9 []).enabled = true ∧ (readyState 0x013#9 []).env.clockCovers 16 = true ∧ 0 < 8 ∧ 7 < 8 := by decide
theorem witness_SixteenEdgesEqualOneExchange :
    (readyState 0x1D7#9 []).enabled = true ∧ (readyState 0x1D7#9 []).env.clockCovers 16 = true := by decide
theorem witness_WireConfigurationOnlyShapesThePins :
    (readyState 0x010#9 []).env.clock = none
      ∧ (∃ t, exec (.xfer 0x8F#8) { readyState 0x010#9 [] with cfg := configured 0x1D7#9 } = .next t)
      ∧ legalConfig 0x1D7#9 = true ∧ ∃ t, exec (.init 0x010#9) State.reset = .next t := ⟨rfl, ⟨_, rfl⟩, rfl, _, rfl⟩
theorem witness_EveryStepKeepsTheInvariant :
    Inv (readyState 0x010#9 []) ∧ ∃ t, step (readyState 0x010#9 []) = .next t :=
  ⟨inv_readyState _ (by decide) (by decide) (by decide) (by decide) (by decide), _, rfl⟩
theorem witness_ConfigurationIsImmutableOnceEnabled :
    (presenting (readyState 0x010#9 []) 0x20000000#32).enabled = true
      ∧ (∃ t, step (presenting (readyState 0x010#9 []) 0x20000000#32) = .next t)
      ∧ (∀ cfg, Instr.select ≠ .init cfg) ∧ (∃ t, exec .select (readyState 0x010#9 []) = .next t)
      ∧ (readyState 0x010#9 []).enabled = true :=
  ⟨rfl, ⟨_, rfl⟩, (fun _ h => by cases h), ⟨_, rfl⟩, rfl⟩
theorem witness_TheTraceIsNeverShortened :
    ∃ t, step (presenting (readyState 0x010#9 []) 0x20000000#32) = .next t := ⟨_, rfl⟩
/-- A step of an enabled machine, the step that enables it, and a step of a disabled one. -/
theorem witness_ChipSelectMovesOnlyWithItsEvents :
    ((presenting (readyState 0x010#9 []) 0x20000000#32).enabled = true
        ∧ view (step (presenting (readyState 0x010#9 []) 0x20000000#32)) State.trace = some ([] ++ [.select]))
      ∧ (State.reset.enabled = false
        ∧ view (step (presenting State.reset 0x10000010#32)) State.enabled = some true
        ∧ view (step (presenting State.reset 0x10000010#32)) State.trace = some ([] ++ []))
      ∧ view (step State.reset) State.enabled = some false ∧ State.reset.seq = .idle := by decide
theorem witness_OnlyRdaxesWritesTheSamples :
    (∀ b, Instr.xfer 0x8F#8 ≠ .rdaxes b) ∧ ∃ t, exec (.xfer 0x8F#8) (readyState 0x010#9 [0xD4#8]) = .next t :=
  ⟨(fun _ h => by cases h), _, rfl⟩
theorem witness_TheSlaveOnlyChoosesBytes :
    (∃ t, exec (.xfer 0x8F#8) (readyState 0x010#9 [0xD4#8]) = .next t)
      ∧ (∃ t, exec (.xfer 0x8F#8) (readyState 0x010#9 [0x2B#8]) = .next t)
      ∧ (∀ cfg, Instr.xfer 0x8F#8 ≠ .init cfg) := ⟨⟨_, rfl⟩, ⟨_, rfl⟩, fun _ h => by cases h⟩
/-- A slave that explains the frame of F1, and one that explains a write of 0x0F to 0x0F followed by a read of it. -/
theorem witness_IdealSlaveReturnsWhatWasWritten :
    (readyState 0x010#9 []).ready = true ∧ (readyState 0x010#9 []).env.clock = none
      ∧ view (exec (.rdreg (0x0F : Fin 128)) (readyState 0x010#9 [0x55#8, 0xD4#8])) State.trace
        = some ((readyState 0x010#9 []).trace ++ frameEvents 0x8F#8 0x55#8 0x00#8 0xD4#8)
      ∧ (IdealSlave.mk (Vector.replicate 128 0xD4#8) .outside).explains (frameEvents 0x8F#8 0x55#8 0x00#8 0xD4#8) = true
      ∧ view (execAll [.wrreg (0x0F : Fin 128) 0x0F#8, .rdreg (0x0F : Fin 128)]
          (readyState 0x010#9 [0x01#8, 0x02#8, 0x03#8, 0x0F#8])) State.trace
        = some ((readyState 0x010#9 []).trace
            ++ (frameEvents 0x0F#8 0x01#8 0x0F#8 0x02#8 ++ frameEvents 0x8F#8 0x03#8 0x00#8 0x0F#8))
      ∧ (IdealSlave.mk (Vector.replicate 128 0x00#8) .outside).explains
          (frameEvents 0x0F#8 0x01#8 0x0F#8 0x02#8 ++ frameEvents 0x8F#8 0x03#8 0x00#8 0x0F#8) = true := by decide
/-- The sensor changes the register between the header and the data byte of F1's frame. -/
theorem witness_IdealSlaveReadsTheRegisterAsItStands :
    (readyState 0x010#9 []).ready = true ∧ (readyState 0x010#9 []).env.clock = none
      ∧ view (exec (.rdreg (0x0F : Fin 128)) (readyState 0x010#9 [0x55#8, 0xD4#8])) State.trace
        = some ((readyState 0x010#9 []).trace ++ busEvents [.bus .select, .bus (.send 0x8F#8 0x55#8),
            .sensor (Vector.replicate 128 0xD4#8), .bus (.send 0x00#8 0xD4#8), .bus .deselect])
      ∧ (IdealSlave.mk (Vector.replicate 128 0x00#8) .outside).explainsMoves [.bus .select, .bus (.send 0x8F#8 0x55#8),
          .sensor (Vector.replicate 128 0xD4#8), .bus (.send 0x00#8 0xD4#8), .bus .deselect] = true
      ∧ view (exec (.wrreg (0x0F : Fin 128) 0x0F#8) (readyState 0x010#9 [0x01#8, 0x02#8])) State.trace
        = some ((readyState 0x010#9 []).trace ++ busEvents [.sensor (Vector.replicate 128 0xD4#8), .bus .select,
            .bus (.send 0x0F#8 0x01#8), .bus (.send 0x0F#8 0x02#8), .bus .deselect]) := by decide
theorem witness_HeaderByteIsFlagAboveAddress : 0 ≤ 127 ∧ 127 ≤ 127 := by decide
theorem witness_PinCommandsFrame :
    (∃ t, exec (.init 0x010#9) State.reset = .next t) ∧ (∃ t, exec .select openState = .next t)
      ∧ ∃ t, exec .deselect openState = .next t := ⟨⟨_, rfl⟩, ⟨_, rfl⟩, _, rfl⟩
theorem witness_XferFrame :
    (∃ t, exec (.xfer 0x8F#8) openState = .next t) ∧ ∃ t, exec (.xfer 0x8F#8) (openState.withClock (some 3) []) = .next t :=
  ⟨⟨_, rfl⟩, _, rfl⟩
theorem witness_RegisterCommandFrame :
    runsTransaction (.wrframe 127 0xFF#8) = true ∧ (∀ b, Instr.wrframe 127 0xFF#8 ≠ .rdaxes b)
      ∧ ∃ t, exec (.wrframe 127 0xFF#8) (readyState 0x010#9 []) = .next t := ⟨rfl, (fun _ h => by cases h), _, rfl⟩
theorem witness_RdaxesFrame : ∃ t, exec (.rdaxes 122) (readyState 0x010#9 []) = .next t := ⟨_, rfl⟩

end Sys2Proof.Tests
end

section
/-! PROOFS. What a step and an instruction do to CFG, CSN and TRACE (10_state R40, R43, R44): INIT aside, CFG stands still,
and CSN moves exactly with the chip-select events that are appended to TRACE. -/

namespace Sys2Proof.Machine

/-! ### Chip-select events -/

theorem chipSelectAfter_append (before : Pin) (first second : List BusEvent) :
    chipSelectAfter before (first ++ second) = chipSelectAfter (chipSelectAfter before first) second := by
  induction first generalizing before with
  | nil => rfl
  | cons ev rest ih => cases ev <;> exact ih _

/-! ### The two ways CSN can behave while CFG stands still -/

/-- CSN, CFG and TRACE are the same in `s` and `t`. -/
structure BusUnmoved (s t : State) : Prop where
  csn : t.csn = s.csn
  cfg : t.cfg = s.cfg
  trace : t.trace = s.trace

/-- From `s` to `t` CFG stands still and TRACE grows by events that put CSN where it is in `t`. -/
structure BusFollowsEvents (s t : State) : Prop where
  cfg : t.cfg = s.cfg
  events : ∃ added, t.trace = s.trace ++ added ∧ t.csn = chipSelectAfter s.csn added

theorem enabled_of_cfg {s t : State} (h : t.cfg = s.cfg) : t.enabled = s.enabled := by
  rw [State.enabled, h, State.enabled]

theorem BusUnmoved.followsEvents {s t : State} (h : BusUnmoved s t) : BusFollowsEvents s t :=
  ⟨h.cfg, [], by rw [h.trace, List.append_nil], h.csn⟩

namespace BusFollowsEvents

theorem refl (s : State) : BusFollowsEvents s s := BusUnmoved.followsEvents ⟨rfl, rfl, rfl⟩

theorem trans {s t u : State} (h : BusFollowsEvents s t) (k : BusFollowsEvents t u) : BusFollowsEvents s u := by
  obtain ⟨hcfg, first, htrace, hcsn⟩ := h
  obtain ⟨kcfg, second, ktrace, kcsn⟩ := k
  refine ⟨kcfg.trans hcfg, first ++ second, ?_, ?_⟩
  · rw [ktrace, htrace, List.append_assoc]
  · rw [kcsn, hcsn, chipSelectAfter_append]

/-- Whatever list TRACE is seen to have grown by, CSN is where that list puts it. -/
theorem csn_eq {s t : State} {added : List BusEvent} (h : BusFollowsEvents s t) (ht : t.trace = s.trace ++ added) :
    t.csn = chipSelectAfter s.csn added := by
  obtain ⟨events, htrace, hcsn⟩ := h.events
  rw [hcsn, List.append_cancel_left (htrace.symm.trans ht)]

end BusFollowsEvents

/-! ### The sequencer -/

/-- A transfer leaves CSN alone, and the one event it can add is no chip-select event (R131, R162). -/
theorem transfer_followsEvents (s : State) (out : Byte) : BusFollowsEvents s (s.transfer out) := by
  have hframe := transfer_frame s out
  obtain htrace | ⟨o, r, htrace⟩ := transfer_trace s out
  · exact BusUnmoved.followsEvents ⟨hframe.csn, hframe.cfg, htrace⟩
  · exact ⟨hframe.cfg, [.send o r], htrace, hframe.csn⟩

theorem advance_unmoved (s : State) (next : Seq) : BusUnmoved s (s.advance next) := by
  unfold State.advance
  split <;> exact ⟨rfl, rfl, rfl⟩

theorem transfer_advance_followsEvents (s : State) (out : Byte) (next : Seq) :
    BusFollowsEvents s ((s.transfer out).advance next) :=
  (transfer_followsEvents s out).trans (advance_unmoved _ next).followsEvents

theorem selectPhase_followsEvents (s : State) : BusFollowsEvents s s.selectPhase := by
  unfold State.selectPhase
  split
  · exact ⟨rfl, [.select], rfl, rfl⟩
  · exact .refl s

theorem addrPhase_followsEvents (s : State) (hdr : Byte) : BusFollowsEvents s (s.addrPhase hdr) := by
  unfold State.addrPhase
  split
  · exact transfer_advance_followsEvents s hdr .data
  · exact .refl s

theorem dataPhase_followsEvents (s : State) (out : Byte) : BusFollowsEvents s (s.dataPhase out) := by
  unfold State.dataPhase
  split
  · exact transfer_advance_followsEvents s out .deselect
  · exact .refl s

theorem deselectPhase_followsEvents (s : State) : BusFollowsEvents s s.deselectPhase := by
  unfold State.deselectPhase
  split
  · exact ⟨rfl, [.deselect], rfl, rfl⟩
  · exact .refl s

theorem transaction_followsEvents (s : State) (rw : Bool) (addr : Nat) (data : Byte) :
    BusFollowsEvents s (s.transaction rw addr data) :=
  (((selectPhase_followsEvents s).trans (addrPhase_followsEvents _ _)).trans (dataPhase_followsEvents _ _)).trans
    (deselectPhase_followsEvents _)

theorem axisLatch_unmoved (s : State) : BusUnmoved s s.axisLatch := by
  unfold State.axisLatch State.nextAxis
  repeat' split
  all_goals exact ⟨rfl, rfl, rfl⟩

theorem axisRead_followsEvents (s : State) (base : Nat) : BusFollowsEvents s (s.axisRead base) := by
  have htransaction : BusFollowsEvents s (s.axisTransaction base) := transaction_followsEvents s true _ dummyByte
  unfold State.axisRead
  split
  · exact htransaction.trans (axisLatch_unmoved _).followsEvents
  · exact htransaction

theorem axisReads_followsEvents (s : State) (base n : Nat) : BusFollowsEvents s (s.axisReads base n) := by
  induction n generalizing s with
  | zero => exact .refl s
  | succ n ih =>
    rw [State.axisReads]
    split
    · exact .refl s
    · exact (axisRead_followsEvents s base).trans (ih _)

/-! ### Instructions -/

theorem accept_followsEvents (s : State) (w : CommandWord) (first : Seq) : BusFollowsEvents s (s.accept w first) :=
  BusUnmoved.followsEvents ⟨rfl, rfl, rfl⟩

theorem enabled_of_ready {s : State} (h : s.ready = true) : s.enabled = true := by
  obtain ⟨-, hen, -⟩ := (ready_iff s).mp h
  exact hen

/-- What INIT does to a disabled machine (R43, R122): it enables it, and drives CSN to 1 without an event. -/
structure Enables (s t : State) : Prop where
  wasDisabled : s.enabled = false
  enabled : t.enabled = true
  csn : t.csn = .driven true
  trace : t.trace = s.trace

theorem enabled_initialise (s : State) (cfg : BitVec 9) : (s.initialise cfg).enabled = true := by
  rw [initialise_eq, State.enabled, ← configured_eq]
  simp [enableBit]

theorem execInit_enables {cfg : BitVec 9} {s t : State} (h : execInit cfg s = .next t) : Enables s t := by
  obtain ⟨-, hdisabled, -, rfl⟩ := execInit_next.mp h
  exact ⟨hdisabled, enabled_initialise _ cfg, rfl, rfl⟩

/-- An instruction that answers a next state is INIT, which enables the machine, or runs on an enabled machine, where CFG
stands still and CSN follows the events (R40, R43, R121). -/
theorem exec_enables_or_followsEvents {i : Instr} {s t : State} (h : exec i s = .next t) :
    ((∃ cfg, i = .init cfg) ∧ Enables s t) ∨ (s.enabled = true ∧ BusFollowsEvents s t) := by
  cases i with
  | init cfg => exact .inl ⟨⟨cfg, rfl⟩, execInit_enables h⟩
  | select =>
    obtain ⟨-, hen, rfl⟩ := execSelect_next.mp h
    exact .inr ⟨hen, rfl, [.select], rfl, rfl⟩
  | deselect =>
    obtain ⟨-, hen, rfl⟩ := execDeselect_next.mp h
    exact .inr ⟨hen, rfl, [.deselect], rfl, rfl⟩
  | xfer data =>
    obtain ⟨-, hen, rfl⟩ := execXfer_next.mp h
    exact .inr ⟨hen, (accept_followsEvents s _ _).trans (transfer_advance_followsEvents _ data .idle)⟩
  | rdreg addr =>
    obtain ⟨hs, -, rfl⟩ := execRdreg_next.mp h
    exact .inr ⟨enabled_of_ready hs, (accept_followsEvents s _ _).trans (transaction_followsEvents _ _ _ _)⟩
  | wrreg addr data =>
    obtain ⟨hs, -, rfl⟩ := execWrreg_next.mp h
    exact .inr ⟨enabled_of_ready hs, (accept_followsEvents s _ _).trans (transaction_followsEvents _ _ _ _)⟩
  | rdaxes base =>
    obtain ⟨hs, -, rfl⟩ := execRdaxes_next.mp h
    have hstart : BusUnmoved s ((s.accept (commandWord (.rdaxes base)) .select).startAxes) := ⟨rfl, rfl, rfl⟩
    exact .inr ⟨enabled_of_ready hs, hstart.followsEvents.trans (axisReads_followsEvents _ base 6)⟩
  | rdframe addr =>
    obtain ⟨hs, -, rfl⟩ := execRdframe_next.mp h
    exact .inr ⟨enabled_of_ready hs, (accept_followsEvents s _ _).trans (transaction_followsEvents _ _ _ _)⟩
  | wrframe addr data =>
    obtain ⟨hs, -, rfl⟩ := execWrframe_next.mp h
    exact .inr ⟨enabled_of_ready hs, (accept_followsEvents s _ _).trans (transaction_followsEvents _ _ _ _)⟩

/-! ### Steps -/

theorem readable_unmoved (s : State) : BusUnmoved s s.readable := by
  obtain h | h := readable_eq_or s <;> rw [h] <;> exact ⟨rfl, rfl, rfl⟩

theorem continueCommand_followsEvents {s t : State} (h : s.continueCommand = .next t) : BusFollowsEvents s t := by
  refine (readable_unmoved s).followsEvents.trans ?_
  obtain ⟨d, -, rfl⟩ | ⟨a, -, rfl⟩ | ⟨a, d, -, rfl⟩ | ⟨b, -, rfl⟩ := continueCommand_next h
  · exact transfer_advance_followsEvents _ d .idle
  · exact transaction_followsEvents _ true a dummyByte
  · exact transaction_followsEvents _ false a d
  · exact axisReads_followsEvents _ b 6

theorem resume_followsEvents {s t : State} (h : s.resume = .next t) : BusFollowsEvents s t := by
  obtain ⟨-, c, later, -, rfl⟩ | ⟨-, hgo⟩ := resume_next h
  · exact BusUnmoved.followsEvents ⟨rfl, rfl, rfl⟩
  · exact continueCommand_followsEvents hgo

theorem hostRead_unmoved {n : Fin 16} {s t : State} (h : hostRead n s = .next t) : BusUnmoved s t := by
  obtain ⟨v, -, rfl⟩ | ⟨-, rfl⟩ := hostRead_next.mp h <;> exact ⟨rfl, rfl, rfl⟩

/-- A step enables the machine by INIT, or leaves the bus alone, or belongs to a command: of an enabled machine, or one that
was already running (R40, R43, R121). -/
theorem step_enables_or_unmoved_or_followsEvents {s t : State} (h : step s = .next t) :
    Enables s t ∨ BusUnmoved s t ∨ ((s.enabled = true ∨ s.seq ≠ .idle) ∧ BusFollowsEvents s t) := by
  obtain ⟨hrun, hresume⟩ | ⟨-, -, rfl⟩ | ⟨-, rest, -, rfl⟩ | ⟨-, n, rest, -, hread⟩ | ⟨-, c, rest, i, -, -, hexec⟩ :=
    step_next h
  · exact .inr (.inr ⟨.inr hrun, resume_followsEvents hresume⟩)
  · exact .inr (.inl ⟨rfl, rfl, rfl⟩)
  · exact .inr (.inl ⟨rfl, rfl, rfl⟩)
  · obtain ⟨hcsn, hcfg, htrace⟩ := hostRead_unmoved hread
    exact .inr (.inl ⟨hcsn, hcfg, htrace⟩)
  · obtain ⟨-, hoff, hon, hcsn, htrace⟩ | ⟨hen, hcfg, hevents⟩ := exec_enables_or_followsEvents hexec
    · exact .inl ⟨hoff, hon, hcsn, htrace⟩
    · exact .inr (.inr ⟨.inl hen, hcfg, hevents⟩)

/-- On an enabled machine every step lets CFG stand still and CSN follow the events (R40, R43). -/
theorem step_followsEvents_of_enabled {s t : State} (h : step s = .next t) (hen : s.enabled = true) :
    BusFollowsEvents s t := by
  obtain hinit | hstill | ⟨-, hfollows⟩ := step_enables_or_unmoved_or_followsEvents h
  · exact absurd hen (Bool.eq_false_iff.mp hinit.wasDisabled)
  · exact hstill.followsEvents
  · exact hfollows

/-- A step that switches EN on is INIT's (R35, R43). -/
theorem step_enables {s t : State} (h : step s = .next t) (hoff : s.enabled = false) (hon : t.enabled = true) :
    Enables s t := by
  have cfg_moved : t.cfg ≠ s.cfg := fun hcfg => Bool.eq_false_iff.mp hoff ((enabled_of_cfg hcfg).symm.trans hon)
  obtain hinit | hstill | ⟨-, hfollows⟩ := step_enables_or_unmoved_or_followsEvents h
  · exact hinit
  · exact absurd hstill.cfg cfg_moved
  · exact absurd hfollows.cfg cfg_moved

/-- An idle disabled machine that a step leaves disabled has run no command (R43, R121). -/
theorem step_unmoved_of_disabled {s t : State} (h : step s = .next t) (hoff : s.enabled = false)
    (hstays : t.enabled = false) (hidle : s.seq = .idle) : BusUnmoved s t := by
  obtain hinit | hstill | ⟨hen | hrun, -⟩ := step_enables_or_unmoved_or_followsEvents h
  · exact absurd hinit.enabled (Bool.eq_false_iff.mp hstays)
  · exact hstill
  · exact absurd hen (Bool.eq_false_iff.mp hoff)
  · exact absurd hidle hrun

/-! ### The obligations -/

/-- Once EN = 1 no instruction moves CFG (R40). -/
theorem exec_cfg_of_enabled {i : Instr} {s t : State} (hen : s.enabled = true) (h : exec i s = .next t) :
    t.cfg = s.cfg := by
  obtain ⟨-, hinit⟩ | ⟨-, hfollows⟩ := exec_enables_or_followsEvents h
  · exact absurd hen (Bool.eq_false_iff.mp hinit.wasDisabled)
  · exact hfollows.cfg

/-- No instruction but INIT writes CFG (R40). -/
theorem exec_cfg_of_not_init {i : Instr} {s t : State} (hi : ∀ cfg, i ≠ .init cfg) (h : exec i s = .next t) :
    t.cfg = s.cfg := by
  obtain ⟨⟨cfg, hinit⟩, -⟩ | ⟨-, hfollows⟩ := exec_enables_or_followsEvents h
  · exact absurd hinit (hi cfg)
  · exact hfollows.cfg

/-- An INIT while EN = 1 is refused (R123), as busy where a command runs. -/
theorem exec_init_refused_of_enabled (cfg : BitVec 9) {s : State} (hen : s.enabled = true) :
    ∃ r, exec (.init cfg) s = .refused r := by
  show ∃ r, execInit cfg s = .refused r
  unfold execInit
  rw [hen]
  split
  · exact ⟨.busy, rfl⟩
  · exact ⟨.alreadyInitialized, rfl⟩

/-- Settles O44: every step of an enabled machine and every instruction but INIT let CFG stand still. -/
theorem configurationIsImmutableOnceEnabled : Obligations.ConfigurationIsImmutableOnceEnabled :=
  ⟨fun _ _ hen h => (step_followsEvents_of_enabled h hen).cfg, fun _ _ _ hen h => exec_cfg_of_enabled hen h,
    fun _ _ _ hi h => exec_cfg_of_not_init hi h, fun cfg _ hen => exec_init_refused_of_enabled cfg hen⟩

/-- Settles O46: CSN follows the appended events through every phase of every command, and INIT alone enables. -/
theorem chipSelectMovesOnlyWithItsEvents : Obligations.ChipSelectMovesOnlyWithItsEvents := by
  intro s t added h htrace
  refine ⟨fun hen => ?_, fun hoff hon => ?_, fun hoff hstays hidle => ?_⟩
  · exact (step_followsEvents_of_enabled h hen).csn_eq htrace
  · exact (step_enables h hoff hon).csn
  · exact (step_unmoved_of_disabled h hoff hstays hidle).csn

end Sys2Proof.Machine
end

section
/-! PROOFS. The header byte (30_encoding R92): its two fields, and the read header as the write header with bit 7 set. -/

namespace Sys2Proof.Machine

/-- Bit 7 of a header byte is its read flag, whatever the address (R92). -/
theorem header_getLsbD_seven (rw : Bool) (addr : Nat) : (header rw addr).getLsbD 7 = rw :=
  calc (header rw addr).getLsbD 7
    _ = (BitVec.ofBool rw).getLsbD 0 := BitVec.getLsbD_append
    _ = rw := BitVec.getLsbD_ofBool rw 0

/-- Bits 6:0 of a header byte are the address modulo 128 (R92). -/
theorem header_extractLsb'_address (rw : Bool) (addr : Nat) :
    (header rw addr).extractLsb' 0 7 = BitVec.ofNat 7 addr :=
  BitVec.extractLsb'_append_eq_right

/-- A read's header is the write's header to the same address with bit 7 set (R92). -/
theorem header_true (addr : Nat) : header true addr = header false addr ||| 0x80#8 := by
  have fields_or : (BitVec.ofBool false ++ BitVec.ofNat 7 addr) ||| (1#1 ++ 0#7)
      = (BitVec.ofBool false ||| 1#1) ++ (BitVec.ofNat 7 addr ||| 0#7) := BitVec.or_append
  rw [BitVec.or_zero] at fields_or
  exact fields_or.symm

/-- A write's header is the address itself: no bit of it reaches the flag (R92). -/
theorem header_false {addr : Nat} (ha : addr < 128) : header false addr = BitVec.ofNat 8 addr :=
  calc header false addr
    _ = (BitVec.ofNat 7 addr).setWidth 8 := (BitVec.setWidth_eq_append (by decide)).symm
    _ = BitVec.ofNat 8 addr := BitVec.setWidth_ofNat_of_le_of_lt (by decide) ha

/-- Settles O52: the two fields are read off the concatenation, and the read header is the address with bit 7 set. -/
theorem headerByteIsFlagAboveAddress : Obligations.HeaderByteIsFlagAboveAddress := by
  intro a ha
  have write_header : header false a = BitVec.ofNat 8 a := header_false (Nat.lt_succ_of_le ha)
  refine ⟨?_, write_header, ?_, fun rw => ⟨header_getLsbD_seven rw a, header_extractLsb'_address rw a⟩⟩
  · rw [header_true, write_header]
  · rw [header_true, BitVec.or_assoc, BitVec.or_self]

end Sys2Proof.Machine
end

section
/-! PROOFS. The Bus Driver (40_bus_driver): a chip-select command as a whole next state (R126). -/

namespace Sys2Proof.Machine

/-- A chip-select command from acceptance to retirement, as one update of an idle state: SEQ leaves IDLE for `first` and is
back there, so that only CSN, TRACE, CMDR and the flag `shifting` are written (R120, R126). -/
theorem accept_driveCsn_emit_retire {s : State} (hidle : s.seq = .idle) (w : CommandWord) (first : Seq) (level : Bool)
    (ev : BusEvent) :
    (((s.accept w first).driveCsn level).emit ev).retire =
      { s with
        csn := .driven level, trace := s.trace ++ [ev]
        cmdr := w, held := { s.held with cmdr := true }, shifting := false } := by
  rw [hidle]
  rfl

/-- Settles O15: an enabled idle state accepts SELECT, and its body amounts to one update of CSN, TRACE and CMDR. -/
theorem selectDrivesChipSelectLow : Obligations.SelectDrivesChipSelectLow := by
  intro s hidle henabled
  refine ⟨commandWord .select, true, false, ?encoded, ?executed⟩
  case encoded => decide
  case executed =>
    exact execSelect_next.mpr ⟨hidle, henabled, accept_driveCsn_emit_retire hidle _ .select false .select⟩

end Sys2Proof.Machine
end

section
/-! PROOFS. Reset and hazards (70_reset_and_hazards): time passing in an idle machine (R262). -/

namespace Sys2Proof.Machine

theorem busy_eq_false_of_idle {s : State} (hidle : s.seq = .idle) : s.busy = false :=
  Bool.eq_false_iff.mpr fun hbusy => (busy_iff s).mp hbusy hidle

/-- The step of an idle machine whose next request is a pause (R226, R262). -/
theorem step_pause {s : State} {rest : List HostRequest} (hidle : s.seq = .idle)
    (hprogram : s.env.program = .pause :: rest) : step s = .next (s.withProgram rest) := by
  unfold step
  rw [busy_eq_false_of_idle hidle, hprogram]
  rfl

/-- The step of an idle machine with no request left (R226, R262). -/
theorem step_noRequest {s : State} (hidle : s.seq = .idle) (hprogram : s.env.program = []) :
    step s = .next s := by
  unfold step
  rw [busy_eq_false_of_idle hidle, hprogram]
  rfl

/-- Settles O6: the step rules of a pause and of an exhausted list of requests, one for each clause. -/
theorem idleTimeChangesNothing : Obligations.IdleTimeChangesNothing :=
  ⟨fun _ _ hidle hprogram => step_pause hidle hprogram, fun _ hidle hprogram => step_noRequest hidle hprogram⟩

end Sys2Proof.Machine
end

section
/-! PROOFS. The decoder and the encoder (30_encoding R91, R96 to R102): a word as its fields, the row a word matches, that
decoding and encoding are inverse, and which words are reserved. -/

namespace Sys2Proof

/-! ### A word as its fields -/

theorem addressBits_addrField (w : CommandWord) : addressBits (addrField w) = w.extractLsb' 8 7 := by
  rw [addressBits, addrField, BitVec.ofNat_toNat, BitVec.setWidth_eq]

theorem addressBits_frameAddr (w : FrameWord) : addressBits (frameAddr w) = w.extractLsb' 8 7 := by
  rw [addressBits, frameAddr, BitVec.ofNat_toNat, BitVec.setWidth_eq]

theorem append_eq_append_iff {m n : Nat} {x x' : BitVec m} {y y' : BitVec n} : x ++ y = x' ++ y' ↔ x = x' ∧ y = y' := by
  refine ⟨fun h => ⟨?_, ?_⟩, fun ⟨hx, hy⟩ => by rw [hx, hy]⟩
  · rw [← BitVec.extractLsb'_append_eq_left (a := x) (b := y), h, BitVec.extractLsb'_append_eq_left]
  · rw [← BitVec.extractLsb'_append_eq_right (a := x) (b := y), h, BitVec.extractLsb'_append_eq_right]

/-- A command word is its OP, its unused bits 27:15, its ADDR and its DATA (R96). -/
theorem command_eq_fields (w : CommandWord) :
    w = w.extractLsb' 28 4 ++ w.extractLsb' 15 13 ++ w.extractLsb' 8 7 ++ w.extractLsb' 0 8 := by
  rw [BitVec.extractLsb'_append_extractLsb'_eq_extractLsb' (show 28 = 15 + 13 from rfl),
    BitVec.extractLsb'_append_extractLsb'_eq_extractLsb' (show 15 = 8 + 7 from rfl),
    BitVec.extractLsb'_append_extractLsb'_eq_extractLsb' (show 8 = 0 + 8 from rfl)]
  exact BitVec.extractLsb'_eq_self.symm

/-- A command word of format C is its OP, its unused bits 27:9 and its CFGI (R96). -/
theorem command_eq_configFields (w : CommandWord) : w = w.extractLsb' 28 4 ++ w.extractLsb' 9 19 ++ w.extractLsb' 0 9 := by
  rw [BitVec.extractLsb'_append_extractLsb'_eq_extractLsb' (show 28 = 9 + 19 from rfl),
    BitVec.extractLsb'_append_extractLsb'_eq_extractLsb' (show 9 = 0 + 9 from rfl)]
  exact BitVec.extractLsb'_eq_self.symm

/-- A wire frame is its flag, its ADDR and its DATA (R91). -/
theorem frame_eq_fields (w : FrameWord) : w = w.extractLsb' 15 1 ++ w.extractLsb' 8 7 ++ w.extractLsb' 0 8 := by
  rw [BitVec.extractLsb'_append_extractLsb'_eq_extractLsb' (show 15 = 8 + 7 from rfl),
    BitVec.extractLsb'_append_extractLsb'_eq_extractLsb' (show 8 = 0 + 8 from rfl)]
  exact BitVec.extractLsb'_eq_self.symm

/-- The fixed bits of formats N, D, A and AD, `addrMask` and `dataMask` the parts of ADDR and DATA that are fixed (R96). -/
theorem command_and_eq_iff {w : CommandWord} {opMask op : BitVec 4} {addrMask : BitVec 7} {dataMask : Byte} :
    w &&& (opMask ++ 0x1FFF#13 ++ addrMask ++ dataMask) = op ++ 0#13 ++ 0#7 ++ 0#8
      ↔ w.extractLsb' 28 4 &&& opMask = op ∧ w.extractLsb' 15 13 = 0#13 ∧ w.extractLsb' 8 7 &&& addrMask = 0#7
        ∧ dataField w &&& dataMask = 0#8 := by
  have hall : w.extractLsb' 15 13 &&& 0x1FFF#13 = w.extractLsb' 15 13 := BitVec.and_allOnes
  conv_lhs => rw [command_eq_fields w]
  rw [BitVec.and_append, BitVec.and_append, BitVec.and_append, hall]
  refine append_eq_append_iff.trans ?_
  rw [append_eq_append_iff, append_eq_append_iff, and_assoc, and_assoc]
  rfl

/-- The fixed bits of format C (R96). -/
theorem configCommand_and_eq_iff {w : CommandWord} {opMask op : BitVec 4} :
    w &&& (opMask ++ 0x7FFFF#19 ++ 0#9) = op ++ 0#19 ++ 0#9
      ↔ w.extractLsb' 28 4 &&& opMask = op ∧ w.extractLsb' 9 19 = 0#19 := by
  have hall : w.extractLsb' 9 19 &&& 0x7FFFF#19 = w.extractLsb' 9 19 := BitVec.and_allOnes
  conv_lhs => rw [command_eq_configFields w]
  rw [BitVec.and_append, BitVec.and_append, hall, BitVec.and_zero]
  refine append_eq_append_iff.trans ?_
  rw [append_eq_append_iff, and_iff_left rfl]

theorem commandOf_fields {w : CommandWord} {op : BitVec 4} (hop : w.extractLsb' 28 4 = op)
    (hunused : w.extractLsb' 15 13 = 0#13) : commandOf op (addressBits (addrField w)) (dataField w) = w := by
  rw [addressBits_addrField, ← hop, commandOf, ← hunused]
  exact (command_eq_fields w).symm

theorem configCommandOf_fields {w : CommandWord} {op : BitVec 4} (hop : w.extractLsb' 28 4 = op)
    (hunused : w.extractLsb' 9 19 = 0#19) : configCommandOf op (cfgiField w) = w := by
  rw [← hop, configCommandOf, ← hunused]
  exact (command_eq_configFields w).symm

theorem frameOf_fields (w : FrameWord) : frameOf (frameRead w) (addressBits (frameAddr w)) (frameData w) = w := by
  have hflag : BitVec.ofBool (frameRead w) = w.extractLsb' 15 1 := by
    apply BitVec.eq_of_getLsbD_eq
    intro i hi
    obtain rfl : i = 0 := by omega
    simp [frameRead]
  rw [frameOf, hflag, addressBits_frameAddr]
  exact (frame_eq_fields w).symm

theorem addressFits_toNat (x : BitVec 7) : addressFits x.toNat = true :=
  decide_eq_true (Nat.le_of_lt_succ x.isLt)

/-! ### The row a word matches -/

theorem ifRowMatches_ok {w mask pattern : CommandWord} {i j : Instr} :
    ifRowMatches w mask pattern j = .ok i ↔ w &&& mask = pattern ∧ j = i := by
  unfold ifRowMatches
  split <;> simp_all

section
variable {w : CommandWord} (op : BitVec 4)

/-- A row of format AD gives back the word from its fields (R96, R100). -/
theorem commandOf_of_row (h : w &&& (0xF#4 ++ 0x1FFF#13 ++ 0#7 ++ 0#8) = op ++ 0#13 ++ 0#7 ++ 0#8) :
    commandOf op (addressBits (addrField w)) (dataField w) = w := by
  obtain ⟨hop, hunused, -, -⟩ := command_and_eq_iff.mp h
  exact commandOf_fields (BitVec.and_allOnes.symm.trans hop) hunused

/-- A row of format A gives back the word from its ADDR (R96, R100). -/
theorem commandOf_of_addressRow (h : w &&& (0xF#4 ++ 0x1FFF#13 ++ 0#7 ++ 0xFF#8) = op ++ 0#13 ++ 0#7 ++ 0#8) :
    commandOf op (addressBits (addrField w)) 0#8 = w := by
  obtain ⟨hop, hunused, -, hdata⟩ := command_and_eq_iff.mp h
  rw [← BitVec.and_allOnes.symm.trans hdata]
  exact commandOf_fields (BitVec.and_allOnes.symm.trans hop) hunused

/-- A row of format D gives back the word from its DATA (R96, R100). -/
theorem commandOf_of_dataRow (h : w &&& (0xF#4 ++ 0x1FFF#13 ++ 0x7F#7 ++ 0#8) = op ++ 0#13 ++ 0#7 ++ 0#8) :
    commandOf op 0#7 (dataField w) = w := by
  obtain ⟨hop, hunused, haddr, -⟩ := command_and_eq_iff.mp h
  rw [← BitVec.and_allOnes.symm.trans haddr, ← addressBits_addrField]
  exact commandOf_fields (BitVec.and_allOnes.symm.trans hop) hunused

/-- A row of format N is one word (R96, R100). -/
theorem commandOf_of_bareRow (h : w &&& BitVec.allOnes 32 = op ++ 0#13 ++ 0#7 ++ 0#8) : commandOf op 0#7 0#8 = w :=
  h.symm.trans BitVec.and_allOnes

/-- A row of format C gives back the word from its CFGI (R96, R100). -/
theorem configCommandOf_of_row (h : w &&& (0xF#4 ++ 0x7FFFF#19 ++ 0#9) = op ++ 0#19 ++ 0#9) :
    configCommandOf op (cfgiField w) = w := by
  obtain ⟨hop, hunused⟩ := configCommand_and_eq_iff.mp h
  exact configCommandOf_fields (BitVec.and_allOnes.symm.trans hop) hunused

end

/-! ### Decoding and encoding -/

/-- A command word that decodes is the word of the well-formed instruction it decodes to (R101). -/
theorem encode_of_decodeCommand {w : CommandWord} {i : Instr} (h : decodeCommand w = .ok i) :
    WellFormed i = true ∧ encode i = .command w := by
  unfold decodeCommand at h
  split at h
  case h_8 => cases h
  all_goals obtain ⟨hrow, rfl⟩ := ifRowMatches_ok.mp h
  case h_1 => exact ⟨rfl, congrArg _ (configCommandOf_of_row 1#4 hrow)⟩
  case h_2 => exact ⟨rfl, congrArg _ (commandOf_of_bareRow 2#4 hrow)⟩
  case h_3 => exact ⟨rfl, congrArg _ (commandOf_of_bareRow 3#4 hrow)⟩
  case h_4 => exact ⟨rfl, congrArg _ (commandOf_of_dataRow 4#4 hrow)⟩
  case h_5 => exact ⟨addressFits_toNat _, congrArg _ (commandOf_of_addressRow 5#4 hrow)⟩
  case h_6 => exact ⟨addressFits_toNat _, congrArg _ (commandOf_of_row 6#4 hrow)⟩
  case h_7 => exact ⟨addressFits_toNat _, congrArg _ (commandOf_of_addressRow 7#4 hrow)⟩

/-- A wire frame that decodes is the frame of the well-formed instruction it decodes to (R91, R93). -/
theorem encode_of_decodeFrame {w : FrameWord} {i : Instr} (h : decodeFrame w = .ok i) :
    WellFormed i = true ∧ encode i = .frame w := by
  have hw := frameOf_fields w
  unfold decodeFrame at h
  split at h
  case isTrue hread =>
    split at h
    case isTrue hdummy =>
      cases h
      rw [hread, hdummy] at hw
      exact ⟨addressFits_toNat _, congrArg _ hw⟩
    case isFalse => cases h
  case isFalse hwrite =>
    cases h
    rw [Bool.eq_false_iff.mpr hwrite] at hw
    exact ⟨addressFits_toNat _, congrArg _ hw⟩

theorem ifRowMatches_match {w mask pattern : CommandWord} (h : w &&& mask = pattern) (i : Instr) :
    ifRowMatches w mask pattern i = .ok i := ifRowMatches_ok.mpr ⟨h, rfl⟩

/-- The command that runs as the instruction does: itself, or the command that produces the wire frame (R91, log entry 9). -/
def runsAs : Instr → Instr
  | .rdframe a => .rdreg a
  | .wrframe a d => .wrreg a d
  | i => i

/-- CMDR's word decodes to the command the instruction is run as (R27, R101). -/
theorem decodeCommand_commandWord {i : Instr} (hi : WellFormed i = true) :
    decodeCommand (commandWord i) = .ok (runsAs i) := by
  have haddr {a : Nat} (ha : addressFits a = true) (op : BitVec 4) (d : Byte) :
      addrField (commandOf op (addressBits a) d) = a := (addrField_commandOf _ _ _).trans (addressBits_toNat ha)
  unfold decodeCommand
  cases i with
  | init cfg =>
    rw [commandWord, opField_configCommandOf]
    exact (ifRowMatches_match (configCommandOf_and 1#4 cfg) _).trans (by rw [cfgiField_configCommandOf]; rfl)
  | select => rfl
  | deselect => rfl
  | xfer d =>
    rw [commandWord, opField_commandOf]
    exact (ifRowMatches_match (commandOf_and_data 4#4 d) _).trans (by rw [dataField_commandOf]; rfl)
  | rdreg a =>
    rw [commandWord, opField_commandOf]
    exact (ifRowMatches_match (commandOf_and_address 5#4 _) _).trans (by rw [haddr hi]; rfl)
  | wrreg a d =>
    rw [commandWord, opField_commandOf]
    exact (ifRowMatches_match (commandOf_and 6#4 _ d) _).trans (by rw [haddr hi, dataField_commandOf]; rfl)
  | rdaxes b =>
    rw [commandWord, opField_commandOf]
    exact (ifRowMatches_match (commandOf_and_address 7#4 _) _).trans (by rw [haddr hi]; rfl)
  | rdframe a =>
    rw [commandWord, opField_commandOf]
    exact (ifRowMatches_match (commandOf_and_address 5#4 _) _).trans (by rw [haddr hi]; rfl)
  | wrframe a d =>
    rw [commandWord, opField_commandOf]
    exact (ifRowMatches_match (commandOf_and 6#4 _ d) _).trans (by rw [haddr hi, dataField_commandOf]; rfl)

/-- A frame's fields come back out of its word (R91). -/
theorem decodeFrame_frameOf {a : Nat} (ha : addressFits a = true) (rw : Bool) (d : Byte) :
    decodeFrame (frameOf rw (addressBits a) d)
      = if rw then (if d = 0#8 then .ok (.rdframe a) else .error .dummyNotZero) else .ok (.wrframe a d) := by
  rw [decodeFrame, frameRead_frameOf, frameAddr_frameOf, frameData_frameOf, addressBits_toNat ha]

/-- But for the wire frames an instruction's word is the one it leaves in CMDR (R27, R90). -/
theorem encode_eq_command {i : Instr} (hi : runsAs i = i) : encode i = .command (commandWord i) := by
  cases i with
  | rdframe a => cases hi
  | wrframe a d => cases hi
  | init | select | deselect | xfer | rdreg | wrreg | rdaxes => rfl

/-- The word of a well-formed instruction decodes to it (R101). -/
theorem decode_encode {i : Instr} (hi : WellFormed i = true) : decode (encode i) = .ok i := by
  by_cases hcommand : runsAs i = i
  · rw [encode_eq_command hcommand, decode, decodeCommand_commandWord hi, hcommand]
  · cases i with
    | rdframe a => exact decodeFrame_frameOf hi true 0#8
    | wrframe a d => exact decodeFrame_frameOf hi false d
    | init | select | deselect | xfer | rdreg | wrreg | rdaxes => exact absurd rfl hcommand

/-- Settles O3: the rows of the table give back the fields of the words they match, and those words from their fields. -/
theorem decodeAndEncodeAreInverse : Obligations.DecodeAndEncodeAreInverse := by
  refine ⟨fun i hi => decode_encode hi, fun c i h => ?_⟩
  cases c with
  | command w => exact encode_of_decodeCommand h
  | frame w => exact encode_of_decodeFrame h

/-! ### Reserved words -/

/-- A word matches a row of format N, D, A or AD exactly when its OP is the row's and its must-be-zero bits are 0 (R97). -/
theorem row_iff_mustBeZero {w : CommandWord} {op : BitVec 4} (hop : opField w = op.toNat) (addrMask : BitVec 7)
    (dataMask : Byte) :
    w &&& (0xF#4 ++ 0x1FFF#13 ++ addrMask ++ dataMask) = op ++ 0#13 ++ 0#7 ++ 0#8
      ↔ w &&& (0#4 ++ 0x1FFF#13 ++ addrMask ++ dataMask) = 0#4 ++ 0#13 ++ 0#7 ++ 0#8 := by
  have hfield : w.extractLsb' 28 4 &&& 0xF#4 = op := BitVec.and_allOnes.trans (BitVec.eq_of_toNat_eq hop)
  rw [command_and_eq_iff, command_and_eq_iff, and_iff_right hfield, and_iff_right BitVec.and_zero]

/-- A word matches the row of format C exactly when its OP is the row's and its must-be-zero bits are 0 (R97). -/
theorem configRow_iff_mustBeZero {w : CommandWord} {op : BitVec 4} (hop : opField w = op.toNat) :
    w &&& (0xF#4 ++ 0x7FFFF#19 ++ 0#9) = op ++ 0#19 ++ 0#9 ↔ w &&& (0#4 ++ 0x7FFFF#19 ++ 0#9) = 0#4 ++ 0#19 ++ 0#9 := by
  have hfield : w.extractLsb' 28 4 &&& 0xF#4 = op := BitVec.and_allOnes.trans (BitVec.eq_of_toNat_eq hop)
  rw [configCommand_and_eq_iff, configCommand_and_eq_iff, and_iff_right hfield, and_iff_right BitVec.and_zero]

theorem ifRowMatches_isOk {w mask pattern : CommandWord} {j : Instr} :
    (∃ i, ifRowMatches w mask pattern j = .ok i) ↔ w &&& mask = pattern := by
  simp [ifRowMatches_ok]

open Machine in
/-- Exactly the words that are not reserved decode (R101, R102). -/
theorem reservedWord_eq_false_iff (w : CommandWord) : reservedWord w = false ↔ ∃ i, decodeCommand w = .ok i := by
  have zero_iff (m : CommandWord) : decide (w &&& m ≠ 0#32) = false ↔ w &&& m = 0#32 := by simp
  unfold decodeCommand
  split
  case h_8 =>
    have hnone : mustBeZeroBits (w.extractLsb' 28 4).toNat = none := by
      rw [show (w.extractLsb' 28 4).toNat = opField w from rfl]
      unfold mustBeZeroBits
      split
      case h_8 => rfl
      all_goals contradiction
    rw [reservedWord, hnone]
    simp
  all_goals
    rename_i hop
    rw [ifRowMatches_isOk, reservedWord, show (w.extractLsb' 28 4).toNat = _ from hop]
  case h_1 => exact (zero_iff _).trans (configRow_iff_mustBeZero (op := 1#4) hop).symm
  case h_2 => exact (zero_iff _).trans (row_iff_mustBeZero (op := 2#4) hop 0x7F#7 0xFF#8).symm
  case h_3 => exact (zero_iff _).trans (row_iff_mustBeZero (op := 3#4) hop 0x7F#7 0xFF#8).symm
  case h_4 => exact (zero_iff _).trans (row_iff_mustBeZero (op := 4#4) hop 0x7F#7 0#8).symm
  case h_5 => exact (zero_iff _).trans (row_iff_mustBeZero (op := 5#4) hop 0#7 0xFF#8).symm
  case h_6 => exact (zero_iff _).trans (row_iff_mustBeZero (op := 6#4) hop 0#7 0#8).symm
  case h_7 => exact (zero_iff _).trans (row_iff_mustBeZero (op := 7#4) hop 0#7 0xFF#8).symm

open Machine in
/-- Settles O4: the reserved words are those that match no row, and the step of any other word is `exec`. -/
theorem reservedWordsAreRefused : Obligations.ReservedWordsAreRefused := by
  intro w s rest hidle hprogram
  have hstep := step_present hidle hprogram
  refine ⟨fun hreserved => ?_, fun hfree => ?_⟩
  · cases hdecode : decodeCommand w with
    | ok i => exact absurd ((reservedWord_eq_false_iff w).mpr ⟨i, hdecode⟩) (by simp [hreserved])
    | error e => rw [hstep, decode, hdecode]
  · obtain ⟨i, hi⟩ := (reservedWord_eq_false_iff w).mp hfree
    exact ⟨i, hi, by rw [hstep, decode, hi]⟩

/-- Settles O2: the decoder computed on each of the words. -/
theorem tabledWordsDecode : Obligations.TabledWordsDecode := by
  refine ⟨rfl, rfl, rfl, rfl, rfl, rfl, rfl, rfl, rfl, fun w hw => ?_⟩
  fin_cases hw <;> rfl

end Sys2Proof
end

section
/-! PROOFS. Sample assembly (30_encoding R95) and the number a sample denotes (00_scope R7). -/

namespace Sys2Proof.Machine

theorem sample_toNat (low high : Byte) : (sample low high).toNat = 256 * high.toNat + low.toNat :=
  calc (sample low high).toNat
    _ = high.toNat <<< 8 ||| low.toNat := BitVec.toNat_append high low
    _ = high.toNat <<< 8 + low.toNat := (Nat.shiftLeft_add_eq_or_of_lt low.isLt high.toNat).symm
    _ = 256 * high.toNat + low.toNat := by rw [Nat.shiftLeft_eq, Nat.mul_comm]

/-- The sign of a sample is that of its high byte (R95). -/
theorem sample_sign (low high : Byte) : (sample low high).getLsbD 15 = decide (128 ≤ high.toNat) :=
  calc (sample low high).getLsbD 15
    _ = high.getLsbD 7 := BitVec.getLsbD_append
    _ = high.msb := (BitVec.msb_eq_getLsbD_last high).symm
    _ = decide (128 ≤ high.toNat) := BitVec.msb_eq_decide high

theorem toInt16_sample (low high : Byte) : toInt16 (sample low high) = 256 * high.toInt + low.toNat := by
  rw [toInt16, sample_sign, sample_toNat, BitVec.toInt_eq_msb_cond, BitVec.msb_eq_decide]
  by_cases hsign : 128 ≤ high.toNat <;> simp only [hsign, decide_true, decide_false, Nat.reducePow, Nat.reduceSub,
    if_true, Bool.false_eq_true, if_false] <;> push_cast <;> ring

/-- Settles O53: the sample is the concatenation of its bytes, whose sign is the high byte's. -/
theorem sampleIsHighAboveLow : Obligations.SampleIsHighAboveLow := by
  intro low high
  have hvalue := toInt16_sample low high
  have hlow := low.isLt
  have hbelow : -128 ≤ high.toInt := BitVec.le_toInt high
  have habove : high.toInt < 128 := BitVec.toInt_lt
  refine ⟨?_, hvalue, by omega, by omega⟩
  rw [BitVec.or_comm, sample, ← BitVec.setWidth_append_eq_shiftLeft_setWidth_or, BitVec.setWidth_eq]

end Sys2Proof.Machine
end

section
/-! PROOFS. The instructions by the body they run, and what a body leaves alone: the fields no step of a command writes, STAT but
for TC, and TRACE but for its growth (10_state R24, R27, R39, R44; 42_register_client R206). -/

namespace Sys2Proof.Machine

/-! ### The instructions by their bodies -/

/-- The transaction an instruction runs: its direction, address and value (R91, R184, R188); `none` for the others. -/
def transactionOf : Instr → Option (Bool × Nat × Byte)
  | .rdreg a => some (true, a, dummyByte)
  | .wrreg a d => some (false, a, d)
  | .rdframe a => some (true, a, dummyByte)
  | .wrframe a d => some (false, a, d)
  | _ => none

/-- The six kinds of instruction by what they run. -/
inductive BodyKind : Instr → Prop
  | init (cfg : BitVec 9) : BodyKind (.init cfg)
  | select : BodyKind .select
  | deselect : BodyKind .deselect
  | xfer (d : Byte) : BodyKind (.xfer d)
  | transaction {i : Instr} {rw : Bool} {a : Nat} {d : Byte} (h : transactionOf i = some (rw, a, d)) : BodyKind i
  | rdaxes (b : Nat) : BodyKind (.rdaxes b)

theorem bodyKind (i : Instr) : BodyKind i := by
  cases i with
  | init cfg => exact .init cfg
  | select => exact .select
  | deselect => exact .deselect
  | xfer d => exact .xfer d
  | rdaxes b => exact .rdaxes b
  | rdreg | wrreg | rdframe | wrframe => exact .transaction rfl

/-- The instructions that run one transaction differ in its operands and in CMDR's word only (R182, log entry 9). -/
theorem exec_transaction {i : Instr} {rw : Bool} {a : Nat} {d : Byte} (hi : transactionOf i = some (rw, a, d)) (s : State) :
    exec i s = whenFrameFree s (addressInRange a)
      fun s => (s.accept (commandWord i) .select).transaction rw a d := by
  cases i with
  | rdreg | wrreg | rdframe | wrframe => cases hi; rfl
  | init | select | deselect | xfer | rdaxes => cases hi

theorem exec_select (s : State) : exec .select s = whenEnabled s
    fun s => (((s.accept (commandWord .select) .select).driveCsn false).emit .select).retire := rfl

theorem exec_deselect (s : State) : exec .deselect s = whenEnabled s
    fun s => (((s.accept (commandWord .deselect) .deselect).driveCsn true).emit .deselect).retire := rfl

theorem exec_xfer (d : Byte) (s : State) : exec (.xfer d) s = whenEnabled s
    fun s => ((s.accept (commandWord (.xfer d)) .data).transfer d).advance .idle := rfl

theorem exec_rdaxes (b : Nat) (s : State) : exec (.rdaxes b) s = whenFrameFree s (baseInRange b)
    fun s => ((s.accept (commandWord (.rdaxes b)) .select).startAxes).runAxes b := rfl

theorem exec_transaction_next {i : Instr} {rw : Bool} {a : Nat} {d : Byte} (hi : transactionOf i = some (rw, a, d))
    {s t : State} : exec i s = .next t ↔ s.ready = true ∧ addressInRange a = true
      ∧ (s.accept (commandWord i) .select).transaction rw a d = t := by
  rw [exec_transaction hi, whenFrameFree_next]

theorem exec_xfer_next {d : Byte} {s t : State} : exec (.xfer d) s = .next t ↔ s.seq = .idle ∧ s.enabled = true
    ∧ ((s.accept (commandWord (.xfer d)) .data).transfer d).advance .idle = t := execXfer_next

theorem exec_rdaxes_next {b : Nat} {s t : State} : exec (.rdaxes b) s = .next t ↔ s.ready = true
    ∧ baseInRange b = true ∧ ((s.accept (commandWord (.rdaxes b)) .select).startAxes).runAxes b = t := execRdaxes_next

theorem runsTransaction_transactionOf {i : Instr} (hi : runsTransaction i = true) (hb : ∀ b, i ≠ .rdaxes b) :
    ∃ rw a d, transactionOf i = some (rw, a, d) := by
  cases i with
  | rdreg | wrreg | rdframe | wrframe => exact ⟨_, _, _, rfl⟩
  | rdaxes b => exact absurd rfl (hb b)
  | init | select | deselect | xfer => cases hi

/-! ### STAT but for TC -/

/-- STAT is the same in `s` and `t` but for TC (R39). -/
def StatKept (s t : State) : Prop := t.stat &&& ~~~tcMask = s.stat &&& ~~~tcMask

theorem StatKept.refl (s : State) : StatKept s s := Eq.refl _

theorem StatKept.trans {s t u : State} (h : StatKept s t) (k : StatKept t u) : StatKept s u := Eq.trans k h

theorem StatKept.of_eq {s t : State} (h : t.stat = s.stat) : StatKept s t := congrArg (· &&& ~~~tcMask) h

theorem startTransfer_stat (s : State) (out : Byte) : (s.startTransfer out).stat = s.stat &&& ~~~tcMask := by
  obtain ⟨p, hp⟩ := startTransfer_eq s out
  rw [hp]
  rfl

theorem startTransfer_statKept (s : State) (out : Byte) : StatKept s (s.startTransfer out) := by
  rw [StatKept, startTransfer_stat, BitVec.and_assoc, BitVec.and_self]

theorem edgeStep_stat (s : State) : s.edgeStep.stat = s.stat := by
  unfold State.edgeStep State.edgePins State.leadingEdge State.trailingEdge
  repeat' split
  all_goals rfl

theorem edges_stat (s : State) (n : Nat) : (s.edges n).stat = s.stat := by
  induction n generalizing s with
  | zero => rfl
  | succ n ih => rw [State.edges, ih, edgeStep_stat]

theorem setTc_statKept (s : State) : StatKept s s.setTc := by
  show (s.stat ||| tcMask) &&& ~~~tcMask = s.stat &&& ~~~tcMask
  rw [BitVec.and_or_distrib_right, BitVec.and_not_self]
  exact BitVec.or_zero

theorem complete_statKept (s : State) : StatKept s s.complete := by
  unfold State.complete
  split
  · exact setTc_statKept s
  · exact .refl s

theorem started_statKept (s : State) (out : Byte) : StatKept s (s.started out) := by
  unfold State.started
  split
  · exact .refl s
  · exact startTransfer_statKept s out

theorem transfer_statKept (s : State) (out : Byte) : StatKept s (s.transfer out) :=
  ((started_statKept s out).trans (.of_eq (edges_stat _ 16))).trans (complete_statKept _)

theorem advance_stat (s : State) (next : Seq) : (s.advance next).stat = s.stat := by
  unfold State.advance
  split <;> rfl

theorem selectPhase_stat (s : State) : s.selectPhase.stat = s.stat := by
  unfold State.selectPhase
  split <;> rfl

theorem deselectPhase_stat (s : State) : s.deselectPhase.stat = s.stat := by
  unfold State.deselectPhase
  split <;> rfl

theorem addrPhase_statKept (s : State) (hdr : Byte) : StatKept s (s.addrPhase hdr) := by
  unfold State.addrPhase
  split
  · exact (transfer_statKept s hdr).trans (.of_eq (advance_stat _ _))
  · exact .refl s

theorem dataPhase_statKept (s : State) (out : Byte) : StatKept s (s.dataPhase out) := by
  unfold State.dataPhase
  split
  · exact (transfer_statKept s out).trans (.of_eq (advance_stat _ _))
  · exact .refl s

theorem transaction_statKept (s : State) (rw : Bool) (a : Nat) (d : Byte) : StatKept s (s.transaction rw a d) :=
  ((StatKept.of_eq (selectPhase_stat s)).trans (addrPhase_statKept _ _)).trans
    ((dataPhase_statKept _ _).trans (.of_eq (deselectPhase_stat _)))

/-! ### What no body writes -/

/-- From `s` to `t` a part of a command's body may have run: what no body writes is the same, STAT but for TC (R206). -/
structure BodyFrame (s t : State) : Prop where
  cmdr : t.cmdr = s.cmdr
  heldCmdr : t.held.cmdr = s.held.cmdr
  cfg : t.cfg = s.cfg
  program : t.env.program = s.env.program
  clockLater : t.env.clockLater = s.env.clockLater
  hostData : t.hostData = s.hostData
  unwrittenReads : t.unwrittenReads = s.unwrittenReads
  stat : StatKept s t

theorem BodyFrame.refl (s : State) : BodyFrame s s := ⟨rfl, rfl, rfl, rfl, rfl, rfl, rfl, .refl s⟩

theorem BodyFrame.trans {s t u : State} (h : BodyFrame s t) (k : BodyFrame t u) : BodyFrame s u :=
  ⟨k.cmdr.trans h.cmdr, k.heldCmdr.trans h.heldCmdr, k.cfg.trans h.cfg, k.program.trans h.program,
    k.clockLater.trans h.clockLater, k.hostData.trans h.hostData, k.unwrittenReads.trans h.unwrittenReads,
    h.stat.trans k.stat⟩

theorem TransactionFrame.toBody {s t : State} (h : TransactionFrame s t) (hstat : StatKept s t) : BodyFrame s t :=
  ⟨h.cmdr, h.heldCmdr, h.cfg, h.program, h.clockLater, h.hostData, h.unwrittenReads, hstat⟩

/-- XFER's body. -/
theorem transfer_advance_frame (s : State) (out : Byte) (next : Seq) :
    TransactionFrame s ((s.transfer out).advance next) :=
  (transfer_frame s out).toTransaction.trans (advance_frame _ next)

theorem transfer_advance_statKept (s : State) (out : Byte) (next : Seq) :
    StatKept s ((s.transfer out).advance next) :=
  (transfer_statKept s out).trans (.of_eq (advance_stat _ _))

theorem transaction_bodyFrame (s : State) (rw : Bool) (a : Nat) (d : Byte) : BodyFrame s (s.transaction rw a d) :=
  (transaction_frame s rw a d).toBody (transaction_statKept s rw a d)

theorem axisLatch_bodyFrame (s : State) : BodyFrame s s.axisLatch := by
  unfold State.axisLatch State.nextAxis
  repeat' split
  all_goals exact ⟨rfl, rfl, rfl, rfl, rfl, rfl, rfl, .of_eq rfl⟩

theorem axisRead_bodyFrame (s : State) (base : Nat) : BodyFrame s (s.axisRead base) := by
  have htransaction : BodyFrame s (s.axisTransaction base) := transaction_bodyFrame s true _ dummyByte
  unfold State.axisRead
  split
  · exact htransaction.trans (axisLatch_bodyFrame _)
  · exact htransaction

theorem axisReads_bodyFrame (s : State) (base n : Nat) : BodyFrame s (s.axisReads base n) := by
  induction n generalizing s with
  | zero => exact .refl s
  | succ n ih =>
    rw [State.axisReads]
    split
    · exact .refl s
    · exact (axisRead_bodyFrame s base).trans (ih _)

/-- Between acceptance and the next state an instruction other than INIT writes nothing that no body writes. -/
theorem exec_bodyFrame {i : Instr} {s t : State} (hi : ∀ cfg, i ≠ .init cfg) (h : exec i s = .next t) :
    ∃ first, BodyFrame (s.accept (commandWord i) first) t := by
  cases bodyKind i with
  | init cfg => exact absurd rfl (hi cfg)
  | select => obtain ⟨-, -, rfl⟩ := execSelect_next.mp h; exact ⟨.select, rfl, rfl, rfl, rfl, rfl, rfl, rfl, .refl _⟩
  | deselect =>
    obtain ⟨-, -, rfl⟩ := execDeselect_next.mp h; exact ⟨.deselect, rfl, rfl, rfl, rfl, rfl, rfl, rfl, .refl _⟩
  | xfer d =>
    obtain ⟨-, -, rfl⟩ := exec_xfer_next.mp h
    exact ⟨.data, (transfer_advance_frame _ d .idle).toBody (transfer_advance_statKept _ d .idle)⟩
  | transaction hbody =>
    obtain ⟨-, -, rfl⟩ := (exec_transaction_next hbody).mp h
    exact ⟨.select, transaction_bodyFrame _ _ _ _⟩
  | rdaxes b =>
    obtain ⟨-, -, rfl⟩ := exec_rdaxes_next.mp h
    have hstart (s : State) : BodyFrame s s.startAxes := ⟨rfl, rfl, rfl, rfl, rfl, rfl, rfl, .refl s⟩
    exact ⟨.select, (hstart _).trans (axisReads_bodyFrame _ b 6)⟩

/-! ### The trace -/

/-- Settles O45: every step leaves TRACE alone or appends the events its CSN follows. -/
theorem theTraceIsNeverShortened : Obligations.TheTraceIsNeverShortened := by
  intro s t h
  obtain hinit | hstill | ⟨-, hfollows⟩ := step_enables_or_unmoved_or_followsEvents h
  · exact ⟨[], by rw [hinit.trace, List.append_nil]⟩
  · exact ⟨[], by rw [hstill.trace, List.append_nil]⟩
  · obtain ⟨added, htrace, -⟩ := hfollows.events
    exact ⟨added, htrace⟩

theorem exec_trace {i : Instr} {s t : State} (h : exec i s = .next t) : ∃ added, t.trace = s.trace ++ added := by
  obtain ⟨-, hinit⟩ | ⟨-, hfollows⟩ := exec_enables_or_followsEvents h
  · exact ⟨[], by rw [hinit.trace, List.append_nil]⟩
  · obtain ⟨added, htrace, -⟩ := hfollows.events
    exact ⟨added, htrace⟩

theorem edgeStep_txsr (s : State) : s.edgeStep.txsr = s.txsr := by
  unfold State.edgeStep State.edgePins State.leadingEdge State.trailingEdge
  repeat' split
  all_goals rfl

theorem edges_txsr (s : State) (n : Nat) : (s.edges n).txsr = s.txsr := by
  induction n generalizing s with
  | zero => rfl
  | succ n ih => rw [State.edges, ih, edgeStep_txsr]

/-- The one event a transfer that starts now can add sends its own byte (R160, R162). -/
theorem transfer_trace_of_start {s : State} (hs : s.shifting = false) (out : Byte) :
    (s.transfer out).trace = s.trace ∨ ∃ r, (s.transfer out).trace = s.trace ++ [.send out r] := by
  have hstarted : s.started out = s.startTransfer out := by simp [State.started, hs]
  have htrace : ((s.startTransfer out).edges 16).trace = s.trace := by rw [edges_trace, startTransfer_trace]
  have htxsr : ((s.startTransfer out).edges 16).txsr = out := by rw [edges_txsr, startTransfer_txsr]
  rw [State.transfer, hstarted, State.complete]
  split
  · right
    refine ⟨((s.startTransfer out).edges 16).rxsr, ?_⟩
    rw [State.emit_trace, htxsr]
    exact congrArg (· ++ _) htrace
  · exact .inl htrace

theorem advance_trace (s : State) (next : Seq) : (s.advance next).trace = s.trace := by
  unfold State.advance
  split <;> rfl

/-! ### The obligations -/

/-- Settles O47: no body but that of RDAXES writes AXIS. -/
theorem onlyRdaxesWritesTheSamples : Obligations.OnlyRdaxesWritesTheSamples := by
  intro i s t hi h
  cases bodyKind i with
  | init cfg => obtain ⟨-, -, -, rfl⟩ := execInit_next.mp h; exact ⟨rfl, rfl⟩
  | select => obtain ⟨-, -, rfl⟩ := execSelect_next.mp h; exact ⟨rfl, rfl⟩
  | deselect => obtain ⟨-, -, rfl⟩ := execDeselect_next.mp h; exact ⟨rfl, rfl⟩
  | xfer d =>
    obtain ⟨-, -, rfl⟩ := exec_xfer_next.mp h
    have hframe := transfer_advance_frame (s.accept (commandWord (.xfer d)) .data) d .idle
    exact ⟨hframe.axis, hframe.heldAxis⟩
  | @transaction _ rw a d hbody =>
    obtain ⟨-, -, rfl⟩ := (exec_transaction_next hbody).mp h
    have hframe := transaction_frame (s.accept (commandWord i) .select) rw a d
    exact ⟨hframe.axis, hframe.heldAxis⟩
  | rdaxes b => exact absurd rfl (hi b)

/-- Settles O55: a transfer and the sequencer's step after it write none of this, and the event is of XFER's byte. -/
theorem xferFrame : Obligations.XferFrame := by
  intro d s t h
  obtain ⟨-, -, rfl⟩ := exec_xfer_next.mp h
  have hcsn := ((transfer_frame (s.accept (commandWord (.xfer d)) .data) d)).csn
  have hadvance := advance_unmoved ((s.accept (commandWord (.xfer d)) .data).transfer d) .idle
  have hframe := transfer_advance_frame (s.accept (commandWord (.xfer d)) .data) d .idle
  have htrace := transfer_trace_of_start (s := s.accept (commandWord (.xfer d)) .data) rfl d
  rw [← advance_trace _ .idle] at htrace
  exact ⟨hadvance.csn.trans hcsn, hframe.cfg, hframe.axis, hframe.lob, hframe.ai, hframe.hl,
    transfer_advance_statKept _ d .idle, hframe.heldAxis, hframe.heldLob, hframe.hostData, hframe.unwrittenReads,
    hframe.program, hframe.clockLater, htrace⟩

/-- Settles O56: the frame of a transaction, whichever instruction runs it. -/
theorem registerCommandFrame : Obligations.RegisterCommandFrame := by
  intro i s t hi hb h
  obtain ⟨rw, a, d, hbody⟩ := runsTransaction_transactionOf hi hb
  have hgrown := exec_trace h
  obtain ⟨-, -, rfl⟩ := (exec_transaction_next hbody).mp h
  have hframe := transaction_frame (s.accept (commandWord i) .select) rw a d
  exact ⟨hframe.cfg, hframe.axis, hframe.lob, hframe.ai, hframe.hl, transaction_statKept _ rw a d, hframe.heldAxis,
    hframe.heldLob, hframe.hostData, hframe.unwrittenReads, hframe.program, hframe.clockLater, hgrown⟩

/-- Settles O57: the frame every body has. -/
theorem rdaxesFrame : Obligations.RdaxesFrame := by
  intro base s t h
  obtain ⟨first, hframe⟩ := exec_bodyFrame (by simp) h
  exact ⟨hframe.cfg, hframe.stat, hframe.hostData, hframe.unwrittenReads, hframe.program, hframe.clockLater,
    exec_trace h⟩

theorem commandWord_of_encode {i : Instr} {w : CommandWord} (h : encode i = .command w) : commandWord i = w := by
  cases i with
  | rdframe | wrframe => cases h
  | init | select | deselect | xfer | rdreg | wrreg | rdaxes => exact CodeWord.command.inj h

theorem commandWord_runsAs (i : Instr) : commandWord (runsAs i) = commandWord i := by cases i <;> rfl

/-- Acceptance puts the instruction's word into CMDR, and no body writes CMDR (R27). -/
theorem exec_cmdr {i : Instr} {s t : State} (h : exec i s = .next t) : t.held.cmdr = true ∧ t.cmdr = commandWord i := by
  by_cases hi : ∃ cfg, i = .init cfg
  · obtain ⟨cfg, rfl⟩ := hi
    obtain ⟨-, -, -, rfl⟩ := execInit_next.mp h
    exact ⟨rfl, rfl⟩
  · obtain ⟨first, hframe⟩ := exec_bodyFrame (not_exists.mp hi) h
    exact ⟨hframe.heldCmdr, hframe.cmdr⟩

/-- Settles O14: acceptance writes CMDR, no body does, and the word decodes to the command that runs. -/
theorem theAcceptedCommandIsInCmdr : Obligations.TheAcceptedCommandIsInCmdr := by
  intro i s t h
  obtain ⟨hheld, hcmdr⟩ := exec_cmdr h
  refine ⟨hheld, hcmdr, fun w hw => hcmdr.trans (commandWord_of_encode hw), fun hwell => ⟨runsAs i, ?_, ?_⟩⟩
  · rw [hcmdr, decodeCommand_commandWord hwell]
  · rw [hcmdr, commandWord_runsAs]

/-- Settles O54: the three bodies write pins, CFG and TRACE only. -/
theorem pinCommandsFrame : Obligations.PinCommandsFrame := by
  rintro i s t (rfl | rfl | ⟨cfg, rfl⟩) h
  · obtain ⟨hidle, -, rfl⟩ := execSelect_next.mp h
    simp [hidle]
  · obtain ⟨hidle, -, rfl⟩ := execDeselect_next.mp h
    simp [hidle]
  · obtain ⟨hidle, -, -, rfl⟩ := execInit_next.mp h
    rw [initialise_eq]
    simp [hidle]

end Sys2Proof.Machine
end

section
/-! PROOFS. Which instruction an idle machine accepts and which refusal it reports (60_exceptions R213, R214), INIT as a whole
and step by step (40_bus_driver R122 to R125), DESELECT (R128), and the first step after reset (70_reset_and_hazards R240). -/

namespace Sys2Proof.Machine

/-! ### The acceptance checks of an idle machine -/

section
variable {s : State} (hidle : s.seq = .idle)
include hidle

theorem execInit_of_idle (cfg : BitVec 9) : execInit cfg s = if s.enabled then .refused .alreadyInitialized
    else if legalConfig cfg then .next ((s.accept (commandWord (.init cfg)) .data).initialise cfg).retire
    else .refused .reservedConfig := by
  rw [execInit, busy_eq_false_of_idle hidle]
  rfl

theorem whenEnabled_of_disabled (hoff : s.enabled = false) (k : State → State) :
    whenEnabled s k = .refused .notInitialized := by
  rw [whenEnabled, busy_eq_false_of_idle hidle, hoff]
  rfl

theorem whenFrameFree_of_disabled (hoff : s.enabled = false) (inRange : Bool) (k : State → State) :
    whenFrameFree s inRange k = .refused .notInitialized := by
  rw [whenFrameFree, busy_eq_false_of_idle hidle, hoff]
  rfl

theorem whenFrameFree_of_open (hon : s.enabled = true) (hopen : s.csn = .driven false) (inRange : Bool)
    (k : State → State) : whenFrameFree s inRange k = .refused .frameOpen := by
  rw [whenFrameFree, busy_eq_false_of_idle hidle, hon, hopen]
  rfl

/-- With EN = 1 INIT is refused, whatever its configuration (R123). -/
theorem exec_init_of_enabled (hon : s.enabled = true) (cfg : BitVec 9) :
    exec (.init cfg) s = .refused .alreadyInitialized :=
  (execInit_of_idle hidle cfg).trans (if_pos hon)

/-- With EN = 0 every instruction but INIT is refused (R121). -/
theorem exec_of_disabled (hoff : s.enabled = false) {i : Instr} (hi : ∀ cfg, i ≠ .init cfg) :
    exec i s = .refused .notInitialized := by
  cases bodyKind i with
  | init cfg => exact absurd rfl (hi cfg)
  | select => rw [exec_select, whenEnabled_of_disabled hidle hoff]
  | deselect => rw [exec_deselect, whenEnabled_of_disabled hidle hoff]
  | xfer d => rw [exec_xfer, whenEnabled_of_disabled hidle hoff]
  | transaction hbody => rw [exec_transaction hbody, whenFrameFree_of_disabled hidle hoff]
  | rdaxes b => rw [exec_rdaxes, whenFrameFree_of_disabled hidle hoff]

/-- With an open frame every instruction that runs a transaction is refused (R180). -/
theorem exec_of_open (hon : s.enabled = true) (hopen : s.csn = .driven false) {i : Instr} (hi : runsTransaction i = true) :
    exec i s = .refused .frameOpen := by
  cases bodyKind i with
  | init | select | deselect | xfer => cases hi
  | transaction hbody => rw [exec_transaction hbody, whenFrameFree_of_open hidle hon hopen]
  | rdaxes b => rw [exec_rdaxes, whenFrameFree_of_open hidle hon hopen]

end

theorem addressInRange_iff {a : Nat} : addressInRange a = true ↔ a ≤ 127 := decide_eq_true_iff

theorem baseInRange_iff {b : Nat} : baseInRange b = true ↔ b + 5 ≤ 127 := decide_eq_true_iff

/-- With the frame free a transaction is refused exactly for its operands (R69). -/
theorem whenFrameFree_addressRange {s : State} (hs : s.ready = true) (inRange : Bool) (k : State → State) :
    whenFrameFree s inRange k = .refused .addressRange ↔ inRange = false := by
  rw [whenFrameFree_ready hs]
  cases inRange <;> simp

theorem exec_transaction_addressRange {i : Instr} {rw : Bool} {a : Nat} {d : Byte}
    (hi : transactionOf i = some (rw, a, d)) {s : State} (hs : s.ready = true) :
    exec i s = .refused .addressRange ↔ 127 < a := by
  rw [exec_transaction hi, whenFrameFree_addressRange hs, addressInRange, decide_eq_false_iff_not, Nat.not_le]

theorem exec_rdaxes_addressRange {s : State} (hs : s.ready = true) (b : Nat) :
    exec (.rdaxes b) s = .refused .addressRange ↔ 122 < b := by
  rw [exec_rdaxes, whenFrameFree_addressRange hs, baseInRange, decide_eq_false_iff_not, Nat.not_le]
  omega

/-- Settles O5: the step of an idle machine, at a word that decodes. -/
theorem stepRunsTheDecodedInstruction : Obligations.StepRunsTheDecodedInstruction := by
  intro c i s rest hidle hprogram hdecode
  rw [step_present hidle hprogram, hdecode]

/-- Settles O11: the check of EN comes before the configuration. -/
theorem secondInitIsRefused : Obligations.SecondInitIsRefused :=
  fun cfg _ hidle hon => exec_init_of_enabled hidle hon cfg

/-- Settles O12: an INIT of a disabled machine is refused exactly for its configuration. -/
theorem reservedConfigurationIsRefused : Obligations.ReservedConfigurationIsRefused := by
  intro cfg s hidle hoff
  have hexec : exec (.init cfg) s = .refused .reservedConfig ↔ legalConfig cfg = false := by
    show execInit cfg s = _ ↔ _
    rw [execInit_of_idle hidle, hoff]
    cases legalConfig cfg <;> simp
  rw [hexec, legalConfig]
  cases cfg.getLsbD 3 <;> cases cfg.getLsbD 4 <;> cases cfg.getLsbD 5 <;> decide

/-- Settles O13: EN is checked first in every instruction but INIT. -/
theorem commandsBeforeInitAreRefused : Obligations.CommandsBeforeInitAreRefused :=
  fun _ _ hidle hoff hi => exec_of_disabled hidle hoff hi

/-- Settles O24: an open frame is refused before the addresses are looked at; with none open only the addresses count. -/
theorem openFrameIsRefused : Obligations.OpenFrameIsRefused := by
  refine ⟨fun i s hidle hon hopen hi => exec_of_open hidle hon hopen hi, fun i s hidle hon hfree hi => ?_⟩
  have hs : s.ready = true := (ready_iff s).mpr ⟨hidle, hon, hfree⟩
  cases i with
  | rdreg a => exact ⟨_, execRdreg_next.mpr ⟨hs, hi, rfl⟩⟩
  | wrreg a d => exact ⟨_, execWrreg_next.mpr ⟨hs, hi, rfl⟩⟩
  | rdaxes b => exact ⟨_, execRdaxes_next.mpr ⟨hs, hi, rfl⟩⟩
  | init | select | deselect | xfer | rdframe | wrframe => cases hi

/-- Settles O25: with the frame free the range check alone decides, and each instruction names its range. -/
theorem addressesOutOfRangeAreRefused : Obligations.AddressesOutOfRangeAreRefused := by
  intro n v s hs
  exact ⟨exec_transaction_addressRange rfl hs, exec_transaction_addressRange rfl hs, exec_rdaxes_addressRange hs n,
    exec_transaction_addressRange rfl hs, exec_transaction_addressRange rfl hs⟩

/-- Settles O26: the decoder first, then the checks in the order in which `exec` makes them. -/
theorem theFirstRefusalIsReported : Obligations.TheFirstRefusalIsReported := by
  intro s rest c hidle hprogram
  have hstep := step_present hidle hprogram
  refine ⟨fun hnone => ?_, fun i hdecode => ?_⟩
  · cases hdecode : decode c with
    | ok i => rw [hdecode] at hnone; cases hnone
    | error e => rw [hstep, hdecode]
  · have hidle' : (s.withProgram rest).seq = .idle := hidle
    rw [hstep, hdecode]
    refine ⟨fun hoff hi => exec_of_disabled hidle' hoff hi, ?_, ?_, fun hon hi hopen => exec_of_open hidle' hon hopen hi, ?_⟩
    · rintro hon ⟨cfg, rfl⟩
      exact exec_init_of_enabled hidle' hon cfg
    · rintro hoff ⟨cfg, rfl, hillegal⟩
      have hoff' : (s.withProgram rest).enabled = false := hoff
      show execInit cfg _ = _
      rw [execInit_of_idle hidle', hoff', hillegal]
      rfl
    · rintro hon ⟨b, rfl, hb⟩ hfree
      exact (exec_rdaxes_addressRange ((ready_iff _).mpr ⟨hidle', hon, hfree⟩) b).mpr hb

/-! ### INIT and DESELECT -/

/-- The word of format C as the spec's tables add it up (R99, R100). -/
theorem commandWord_init (cfg : BitVec 9) : commandWord (.init cfg) = 0x10000000#32 ||| cfg.setWidth 32 := by
  have hor : (1#4 ++ 0#19 ++ 0#9) ||| (0#23 ++ cfg) = ((1#4 ++ 0#19) ||| 0#23) ++ (0#9 ||| cfg) := BitVec.or_append
  rw [BitVec.or_zero, BitVec.zero_or] at hor
  rw [BitVec.setWidth_eq_append (by decide : 9 ≤ 32)]
  exact hor.symm

/-- Settles O9: the five micro-steps between acceptance and retirement, as one update of a disabled idle state. -/
theorem initConfiguresAndEnables : Obligations.InitConfiguresAndEnables := by
  intro cfg s hidle hoff hduplex hmaster hmode
  have hlegal : legalConfig cfg = true := by rw [legalConfig, hduplex, hmaster, hmode]; rfl
  refine ⟨Config.sdoAfterInit s.env.draws, execInit_next.mpr ⟨hidle, hoff, hlegal, ?_⟩⟩
  rw [initialise_eq, ← configured_eq, commandWord_init, BitVec.or_comm (cfg.setWidth 16), hidle]
  rfl

theorem enabled_of_setWidth (cfg : BitVec 9) : (cfg.setWidth 16).getLsbD 15 = false := by simp

/-- CFG after n of INIT's micro-steps (R122, R125). -/
theorem initSteps_cfg (s : State) (cfg : BitVec 9) {n : Nat} (hn : n ≤ 5) : (s.initSteps cfg n).cfg
    = if n < 4 then s.cfg else if n = 4 then cfg.setWidth 16 else 0x8000#16 ||| cfg.setWidth 16 := by
  obtain hlt | rfl | rfl : n < 4 ∨ n = 4 ∨ n = 5 := by omega
  · interval_cases n <;> rfl
  · rfl
  · exact BitVec.or_comm _ _

/-- EN is 1 after the last of INIT's micro-steps and not before (R125). -/
theorem initSteps_enabled {s : State} (hoff : s.enabled = false) (cfg : BitVec 9) {n : Nat} (hn : n ≤ 5) :
    (s.initSteps cfg n).enabled = decide (n = 5) := by
  obtain hlt | rfl | rfl : n < 4 ∨ n = 4 ∨ n = 5 := by omega
  · interval_cases n <;> exact hoff
  · exact enabled_of_setWidth cfg
  · exact enabled_initialise s cfg

/-- Settles O10: the six states written out micro-step by micro-step, and INIT as the last of them. -/
theorem initDrivesChipSelectBeforeTheBusPins : Obligations.InitDrivesChipSelectBeforeTheBusPins := by
  intro cfg s hoff
  refine ⟨fun n hn => ⟨?csn, ?before, ?third, ?sdo, ?sck, initSteps_cfg s cfg hn, initSteps_enabled hoff cfg hn, ?rest⟩,
    fun hidle hlegal => execInit_next.mpr ⟨hidle, hoff, hlegal, rfl⟩⟩
  case csn => interval_cases n <;> rfl
  case before => intro hlt; interval_cases n <;> exact ⟨rfl, rfl⟩
  case third => rintro rfl; exact ⟨_, rfl⟩
  case sdo => intro hle; interval_cases n <;> exact ⟨_, rfl⟩
  case sck => intro hle; interval_cases n <;> rfl
  case rest => interval_cases n <;> rfl

/-- Settles O16: an enabled idle state accepts DESELECT, and its body amounts to one update of CSN, TRACE and CMDR. -/
theorem deselectDrivesChipSelectHigh : Obligations.DeselectDrivesChipSelectHigh := by
  intro s hidle henabled
  refine ⟨commandWord .deselect, true, false, rfl, ?_⟩
  exact execDeselect_next.mpr ⟨hidle, henabled, accept_driveCsn_emit_retire hidle _ .deselect true .deselect⟩

/-! ### After reset -/

/-- Settles O1: the fields of the reset state, and that a disabled machine refuses all but INIT. -/
theorem resetIsQuietUntilInit : Obligations.ResetIsQuietUntilInit := by
  refine ⟨rfl, rfl, rfl, rfl, rfl, rfl, rfl, rfl, rfl, rfl, rfl, rfl, rfl, rfl, fun rest => rfl, fun c rest t h => ?_⟩
  generalize hs : State.reset.withProgram (.present c :: rest) = s at h
  have hidle : s.seq = .idle := hs ▸ rfl
  have hoff : s.enabled = false := hs ▸ (rfl : State.reset.enabled = false)
  rw [step_present hidle (by rw [← hs]; rfl)] at h
  cases hdecode : decode c with
  | error e => rw [hdecode] at h; cases h
  | ok i =>
    rw [hdecode] at h
    by_contra hnone
    have hi : ∀ cfg, i ≠ .init cfg := fun cfg hcfg => hnone ⟨cfg, by rw [hcfg]⟩
    cases (exec_of_disabled (s := s.withProgram rest) hidle hoff hi).symm.trans h

end Sys2Proof.Machine
end

section
/-! PROOFS. The host's read port (10_state R28): a register that holds a value, and the record of a read that finds none
(60_exceptions R215). -/

namespace Sys2Proof.Machine

theorem step_read {s : State} {n : Fin 16} {rest : List HostRequest} (hidle : s.seq = .idle)
    (hprogram : s.env.program = .read n :: rest) : step s = hostRead n (s.withProgram rest) := by
  unfold step
  rw [busy_eq_false_of_idle hidle, hprogram]
  rfl

section
variable {n : Fin 16} {s : State}

theorem hostRead_of_value {v : BitVec 16} (h : s.portRegister n = .value v) :
    hostRead n s = .next { s with hostData := some v } := by
  rw [hostRead, h]

theorem hostRead_of_noValue (h : s.portRegister n = .noValue) : hostRead n s
    = .next { s with hostData := some (s.unwrittenPortValue n), unwrittenReads := s.unwrittenReads + 1 } := by
  rw [hostRead, h]
  rfl

theorem hostRead_of_noRegister (h : s.portRegister n = .noRegister) : hostRead n s = .refused .noSuchRegister := by
  rw [hostRead, h]

/-- Register numbers from 6 on stand for no register (R28). -/
theorem portRegister_of_six_le (s : State) (hn : 6 ≤ n.val) : s.portRegister n = .noRegister := by
  unfold State.portRegister
  split
  case h_7 => rfl
  all_goals omega

end

theorem portValue_of_present {present : Bool} (h : present = true) (v : BitVec 16) : portValue present v = .value v := by
  rw [h]; rfl

theorem portValue_of_absent {present : Bool} (h : present = false) (v : BitVec 16) : portValue present v = .noValue := by
  rw [h]; rfl

theorem zeroExtend_rxd (b : Byte) : b.setWidth 16 = 0x00#8 ++ b := BitVec.setWidth_eq_append (by decide)

/-- Settles O7: each register by its number, read through the one rule for a register that holds a value. -/
theorem hostReadGivesTheNumberedRegister : Obligations.HostReadGivesTheNumberedRegister := by
  intro n s rest hidle hprogram
  rw [step_read hidle hprogram]
  refine ⟨fun hn => hostRead_of_noRegister (portRegister_of_six_le _ hn), fun v hv => hostRead_of_value ?_⟩
  obtain ⟨hn, hon, rfl⟩ | ⟨hn, rfl⟩ | ⟨hn, hheld, rfl⟩ | ⟨hn, hheld, rfl⟩ | ⟨hn, hheld, rfl⟩ | ⟨hn, hheld, rfl⟩ := hv
  · obtain rfl : n = 0 := Fin.ext hn
    exact portValue_of_present hon _
  · obtain rfl : n = 1 := Fin.ext hn
    rfl
  · obtain rfl : n = 2 := Fin.ext hn
    rw [← zeroExtend_rxd]
    exact portValue_of_present hheld _
  · obtain rfl : n = 3 := Fin.ext hn
    exact portValue_of_present hheld _
  · obtain rfl : n = 4 := Fin.ext hn
    exact portValue_of_present hheld _
  · obtain rfl : n = 5 := Fin.ext hn
    exact portValue_of_present hheld _

/-! ### The record of reads without a value -/

theorem hostRead_unwrittenReads_le {n : Fin 16} {s t : State} (h : hostRead n s = .next t) :
    s.unwrittenReads ≤ t.unwrittenReads := by
  obtain ⟨v, -, rfl⟩ | ⟨-, rfl⟩ := hostRead_next.mp h
  · exact Nat.le_refl _
  · exact Nat.le_succ _

theorem readable_unwrittenReads_le (s : State) : s.unwrittenReads ≤ s.readable.unwrittenReads := by
  obtain h | h := readable_eq_or s <;> rw [h]
  exact Nat.le_succ _

theorem resume_unwrittenReads_le {s t : State} (h : s.resume = .next t) : s.unwrittenReads ≤ t.unwrittenReads := by
  obtain ⟨-, c, later, -, rfl⟩ | ⟨-, hgo⟩ := resume_next h
  · exact Nat.le_refl _
  · refine (readable_unwrittenReads_le s).trans_eq (Eq.symm ?_)
    obtain ⟨d, -, rfl⟩ | ⟨a, -, rfl⟩ | ⟨a, d, -, rfl⟩ | ⟨b, -, rfl⟩ := continueCommand_next hgo
    · exact (transfer_advance_frame _ d .idle).unwrittenReads
    · exact (transaction_frame _ true a dummyByte).unwrittenReads
    · exact (transaction_frame _ false a d).unwrittenReads
    · exact (axisReads_bodyFrame _ b 6).unwrittenReads

theorem exec_unwrittenReads {i : Instr} {s t : State} (h : exec i s = .next t) : t.unwrittenReads = s.unwrittenReads := by
  by_cases hi : ∃ cfg, i = .init cfg
  · obtain ⟨cfg, rfl⟩ := hi
    obtain ⟨-, -, -, rfl⟩ := execInit_next.mp h
    rfl
  · obtain ⟨first, hframe⟩ := exec_bodyFrame (not_exists.mp hi) h
    exact hframe.unwrittenReads

theorem step_unwrittenReads_le {s t : State} (h : step s = .next t) : s.unwrittenReads ≤ t.unwrittenReads := by
  obtain ⟨-, hresume⟩ | ⟨-, -, rfl⟩ | ⟨-, rest, -, rfl⟩ | ⟨-, n, rest, -, hread⟩ | ⟨-, c, rest, i, -, -, hexec⟩ :=
    step_next h
  · exact resume_unwrittenReads_le hresume
  · exact Nat.le_refl _
  · exact Nat.le_refl _
  · exact hostRead_unwrittenReads_le (s := s.withProgram rest) hread
  · exact (exec_unwrittenReads hexec).ge

/-- Settles O8: the free value is cut to the register's own bits, and every part of a step keeps or raises the count. -/
theorem hostReadOfAValuelessRegisterIsRecorded : Obligations.HostReadOfAValuelessRegisterIsRecorded := by
  refine ⟨fun n s rest hidle hprogram hnone => ?_, fun s t h => step_unwrittenReads_le h⟩
  have hport : (s.withProgram rest).portRegister n = .noValue := by
    obtain ⟨hn, hoff⟩ | ⟨hn, hheld⟩ | ⟨hn, hheld⟩ | ⟨hn, hheld⟩ | ⟨hn, hheld⟩ := hnone
    · obtain rfl : n = 0 := Fin.ext hn
      exact portValue_of_absent hoff _
    · obtain rfl : n = 2 := Fin.ext hn
      exact portValue_of_absent hheld _
    · obtain rfl : n = 3 := Fin.ext hn
      exact portValue_of_absent hheld _
    · obtain rfl : n = 4 := Fin.ext hn
      exact portValue_of_absent hheld _
    · obtain rfl : n = 5 := Fin.ext hn
      exact portValue_of_absent hheld _
  have outside_mask {v mask other : BitVec 16} (hmask : mask &&& other = 0#16) : v &&& mask &&& other = 0#16 := by
    rw [BitVec.and_assoc, hmask, BitVec.and_zero]
  refine ⟨_, (step_read hidle hprogram).trans (hostRead_of_noValue hport), fun hn => ?_, fun hn => ?_⟩
  · obtain rfl : n = 0 := Fin.ext hn
    exact outside_mask (by decide)
  · obtain rfl : n = 2 := Fin.ext hn
    exact outside_mask (by decide)

end Sys2Proof.Machine
end

section
/-! PROOFS. The byte transfer edge by edge (41_shifter_wire R152 to R166): single steps, the states along the sixteen edges, and
the whole transfer as one exchange. -/

namespace Sys2Proof.Machine

/-! ### Single steps -/

theorem startTransfer_fields (s : State) (out : Byte) : s.startTransfer out =
    { s with
      stat := s.stat &&& 0xFFFE#16, txsr := out, held := { s.held with txsr := true }, edge := 0, shifting := true
      sdo := if s.cpha then s.sdo else .driven (out.getLsbD (if s.lsbFirst then 0 else 7)) } := by
  have hpos : (s.loadShifter out).pos 0 = if s.lsbFirst then 0 else 7 := rfl
  unfold State.startTransfer
  cases s.cpha
  · rw [if_neg Bool.false_ne_true, if_neg Bool.false_ne_true, State.shiftOut, hpos]
    rfl
  · rfl

/-- Every state is where it stands in a transfer. -/
theorem inTransfer_self (s : State) : inTransfer s s.sck s.sdo s.rxsr s.held.rxsr s.edge s.env.clock = s := rfl

theorem edgeStep_leading {s : State} {k : Nat} (hen : s.edgeEnabled = true) (hk : s.edge = 2 * k) :
    ∃ draw env, s.edgeStep = { s with
      edge := 2 * k + 1, env := env, sck := .driven (!s.cpol)
      sdo := if s.cpha then .driven (s.txsr.getLsbD (s.pos k)) else s.sdo
      rxsr := if s.cpha then s.rxsr else setBit s.rxsr (s.pos k) draw
      held := { s.held with rxsr := if s.cpha then s.held.rxsr else setBit s.held.rxsr (s.pos k) true } } := by
  have heven : s.edge % 2 = 0 := by omega
  have hcell : s.edge / 2 = k := by omega
  refine ⟨s.incoming.getLsbD (s.pos k), s.env.tick, ?_⟩
  cases hphase : s.cpha
  · have hstep := edgeStep_leading_sample (by rwa [inTransfer_self]) heven hphase
    rw [inTransfer_self, hcell, hk] at hstep
    exact hstep
  · have hstep := edgeStep_leading_shift (by rwa [inTransfer_self]) heven hphase
    rw [inTransfer_self, hcell, hk] at hstep
    exact hstep

theorem edgeStep_trailing {s : State} {k : Nat} (hen : s.edgeEnabled = true) (hk : s.edge = 2 * k + 1) :
    ∃ draw env, s.edgeStep = { s with
      edge := 2 * k + 2, env := env, sck := .driven s.cpol
      sdo := if s.cpha = false ∧ k < 7 then .driven (s.txsr.getLsbD (s.pos (k + 1))) else s.sdo
      rxsr := if s.cpha then setBit s.rxsr (s.pos k) draw else s.rxsr
      held := { s.held with rxsr := if s.cpha then setBit s.held.rxsr (s.pos k) true else s.held.rxsr } } := by
  have hodd : s.edge % 2 = 1 := by omega
  have hcell : s.edge / 2 = k := by omega
  refine ⟨s.incoming.getLsbD (s.pos k), s.env.tick, ?_⟩
  cases hphase : s.cpha
  · have hstep := edgeStep_trailing_shift (by rwa [inTransfer_self]) hodd hphase
    rw [inTransfer_self, hcell, hk] at hstep
    simp only [true_and]
    exact hstep
  · have hstep := edgeStep_trailing_sample (by rwa [inTransfer_self]) hodd hphase
    rw [inTransfer_self, hcell, hk] at hstep
    exact hstep

/-- Settles O35: the start step and the two kinds of edge, each as one update. -/
theorem edgeStepsFollowPolarityPhaseAndBitOrder : Obligations.EdgeStepsFollowPolarityPhaseAndBitOrder := by
  refine ⟨fun s out => ⟨true, startTransfer_fields s out⟩, fun s hs hon => ⟨fun hstop => ?_, ?_⟩⟩
  · apply edgeStep_blocked
    rw [State.edgeEnabled]
    obtain hclock | hdone := hstop
    · rw [hclock, Bool.and_false, Bool.false_and]
    · rw [decide_eq_false (Nat.not_lt.mpr hdone), Bool.and_false]
  · rintro k p q hclock hk rfl rfl
    have hen (hedge : s.edge < 16) : s.edgeEnabled = true := by
      rw [State.edgeEnabled, hs, hon, hclock, decide_eq_true hedge]; rfl
    exact ⟨fun hedge => edgeStep_leading (hen (by omega)) hedge, fun hedge => edgeStep_trailing (hen (by omega)) hedge⟩

/-- Settles O36: the completion is one update, made at EDGE = 16 only. -/
theorem completionLoadsRxdAndSetsTc : Obligations.CompletionLoadsRxdAndSetsTc := by
  intro s hs
  refine ⟨fun hedge => ⟨false, s.env.answered, ?_⟩, fun hedge => ?_⟩
  · rw [State.complete, hs, decide_eq_true hedge]
    rfl
  · rw [State.complete, hs, decide_eq_false hedge]
    rfl

/-! ### Along the edges -/

theorem clockCovers_iff (e : Env) (n : Nat) : e.clockCovers n = true ↔ ∀ m, e.clock = some m → n ≤ m := by
  unfold Env.clockCovers
  cases e.clock <;> simp

/-- The state n edges after the start step, for a clock that gives them (R160). -/
theorem startTransfer_edges {s : State} (out : Byte) {n : Nat} (hon : s.enabled = true) (hc : s.env.clockCovers n = true)
    (hn : n ≤ 16) :
    (s.startTransfer out).edges n = afterEdges (s.startTransfer out) n (s.env.clock.map (· - n)) := by
  have hstart := afterEdges_zero (startTransfer_edge s out)
  rw [startTransfer_env] at hstart
  have hrun := edges_afterEdges (s.startTransfer out) (startTransfer_shifting s out) (by rw [startTransfer_enabled, hon]) n 0
    s.env.clock ((clockCovers_iff s.env n).mp hc) (by omega)
  rwa [hstart, Nat.zero_add] at hrun

section
variable (s : State) (out : Byte)

theorem startTransfer_cpha : (s.startTransfer out).cpha = s.cpha := by rw [State.cpha, startTransfer_cfg]; rfl
theorem startTransfer_cpol : (s.startTransfer out).cpol = s.cpol := by rw [State.cpol, startTransfer_cfg]; rfl
theorem startTransfer_lsbFirst : (s.startTransfer out).lsbFirst = s.lsbFirst := by
  rw [State.lsbFirst, startTransfer_cfg]; rfl
theorem startTransfer_pos (k : Nat) : (s.startTransfer out).pos k = s.pos k := by
  rw [State.pos, startTransfer_lsbFirst]; rfl

end

section
variable (s : State) (n : Nat) (c : Option Nat)

theorem afterEdges_sck : (afterEdges s n c).sck = sckAfter s n := rfl
theorem afterEdges_sdo : (afterEdges s n c).sdo = sdoAfter s n := rfl
theorem afterEdges_rxsr :
    (afterEdges s n c).rxsr = fillBits s.rxsr s.incoming s.lsbFirst (cellsDone s.cpha n) := rfl
theorem afterEdges_held_rxsr :
    (afterEdges s n c).held.rxsr = fillBits s.held.rxsr 0xFF#8 s.lsbFirst (cellsDone s.cpha n) := rfl

end

/-- Edge n + 1 is the sampling edge of cell n / 2 when it is the one CPHA says (R160). -/
theorem cellsDone_of_sampling {cpha : Bool} {n : Nat} (h : decide (n % 2 = 1) = cpha) :
    cellsDone cpha n = n / 2 ∧ cellsDone cpha (n + 1) = n / 2 + 1 := by
  subst h
  unfold cellsDone
  by_cases hodd : n % 2 = 1
  · rw [decide_eq_true hodd, if_pos rfl, if_pos rfl]; omega
  · rw [decide_eq_false hodd, if_neg Bool.false_ne_true, if_neg Bool.false_ne_true]; omega

/-- An edge that does not sample finishes no cell (R160). -/
theorem cellsDone_of_shifting {cpha : Bool} {n : Nat} (h : decide (n % 2 = 1) ≠ cpha) :
    cellsDone cpha (n + 1) = cellsDone cpha n := by
  unfold cellsDone
  by_cases hodd : n % 2 = 1
  · rw [decide_eq_true hodd] at h
    rw [Bool.eq_false_iff.mpr h.symm, if_neg Bool.false_ne_true, if_neg Bool.false_ne_true]; omega
  · rw [decide_eq_false hodd] at h
    rw [(Bool.eq_true_of_not_eq_false h.symm), if_pos rfl, if_pos rfl]; omega

theorem cellsDone_sixteen (cpha : Bool) : cellsDone cpha 16 = 8 := by cases cpha <;> rfl

/-- Filling one more cell changes no bit but that cell's, and that one only if the cell is filled now (R156). -/
theorem fillBits_cellsDone_succ (v b : Byte) (lsbFirst cpha : Bool) {n i : Nat} (hn : n < 16)
    (h : i ≠ bitPos lsbFirst (n / 2) ∨ decide (n % 2 = 1) ≠ cpha) :
    (fillBits v b lsbFirst (cellsDone cpha (n + 1))).getLsbD i
      = (fillBits v b lsbFirst (cellsDone cpha n)).getLsbD i := by
  by_cases hsampling : decide (n % 2 = 1) = cpha
  · obtain ⟨hbefore, hafter⟩ := cellsDone_of_sampling hsampling
    rw [hbefore, hafter, fillBits_succ, getLsbD_setBit _ _ _ _ (bitPos_lt (by omega)),
      if_neg (h.resolve_right (not_not_intro hsampling))]
  · rw [cellsDone_of_shifting hsampling]

/-- A filled cell's bit reads as the source's (R156). -/
theorem fillBits_getLsbD_bitPos (v b : Byte) (lsbFirst : Bool) {k cells : Nat} (hk : k < cells) (hcells : cells ≤ 8) :
    (fillBits v b lsbFirst cells).getLsbD (bitPos lsbFirst k) = b.getLsbD (bitPos lsbFirst k) := by
  refine fillBits_mono v b lsbFirst cells hcells _ (bitPos_lt (by omega)) ?_
  have hself : bitPos lsbFirst (bitPos lsbFirst k) = k := by unfold bitPos; split <;> omega
  rwa [hself]

/-- Settles O37: along the edges RXSR and its flags are the first cells filled in, and an edge fills at most its own. -/
theorem rxsrIsFilledOneBitPerCell : Obligations.RxsrIsFilledOneBitPerCell := by
  intro s out n hon hc hn
  have hbefore := startTransfer_edges out hon (clockCovers_le hc (by omega : n ≤ 16)) (by omega)
  have hafter := startTransfer_edges out hon (clockCovers_le hc (by omega : n + 1 ≤ 16)) (by omega)
  have hlast := startTransfer_edges out hon hc (Nat.le_refl 16)
  rw [hbefore, hafter, hlast]
  simp only [afterEdges_txsr, startTransfer_txsr, afterEdges_rxsr, afterEdges_held_rxsr, startTransfer_lsbFirst,
    startTransfer_cpha]
  refine ⟨trivial, trivial, fun i _ hother => ⟨?_, ?_⟩, fun hsampling => ?_, ?_⟩
  · exact fillBits_cellsDone_succ _ _ _ _ hn hother
  · exact fillBits_cellsDone_succ _ _ _ _ hn hother
  · rw [(cellsDone_of_sampling hsampling).2]
    exact (fillBits_getLsbD_bitPos _ _ _ (Nat.lt_succ_self _) (by omega)).trans
      (getLsbD_allOnes_byte (bitPos_lt (by omega)))
  · rw [cellsDone_sixteen, fillBits_eight]

/-- Settles O38: SCK along the edges. -/
theorem theClockLeavesItsIdleLevelOnOddEdges : Obligations.TheClockLeavesItsIdleLevelOnOddEdges := by
  intro s out n hon hc hfirst hlast
  rw [startTransfer_edges out hon hc hlast, afterEdges_sck, sckAfter, if_neg (by omega), startTransfer_cpol]

/-- Just after the sampling edge of cell k SDO still carries the bit of that cell (R154, R158). -/
theorem sdoAfter_sampling (s : State) (out : Byte) {k : Nat} (hk : k < 8) :
    sdoAfter (s.startTransfer out) (if s.cpha then 2 * k + 2 else 2 * k + 1) = .driven (out.getLsbD (s.pos k)) := by
  unfold sdoAfter
  rw [startTransfer_cpha, startTransfer_txsr]
  simp only [startTransfer_pos]
  cases hphase : s.cpha
  · simp only [Bool.false_eq_true, if_false]
    by_cases hfirst : k = 0
    · subst hfirst
      rw [if_pos (by omega), startTransfer_fields, hphase]
      rfl
    · rw [if_neg (by omega), show min ((2 * k + 1) / 2) 7 = k by omega]
  · simp only [if_true]
    rw [if_neg (by omega), show (2 * k + 2 - 1) / 2 = k by omega]

theorem cellsDone_sampling (cpha : Bool) (k : Nat) :
    cellsDone cpha (if cpha then 2 * k + 2 else 2 * k + 1) = k + 1 := by
  cases cpha
  · rw [cellsDone, if_neg Bool.false_ne_true, if_neg Bool.false_ne_true]; omega
  · rw [cellsDone, if_pos rfl, if_pos rfl]; omega

/-- Settles O39: at the sampling edge of a cell the closed forms of SDO and RXSR give that cell's bits. -/
theorem eachCellCarriesItsBit : Obligations.EachCellCarriesItsBit := by
  intro s out k hon hc hk
  have hle : (if s.cpha then 2 * k + 2 else 2 * k + 1) ≤ 16 := by split <;> omega
  rw [startTransfer_edges out hon (clockCovers_le hc hle) hle, afterEdges_sdo, afterEdges_rxsr, sdoAfter_sampling s out hk,
    startTransfer_cpha, cellsDone_sampling, startTransfer_lsbFirst, startTransfer_incoming]
  exact ⟨rfl, fillBits_getLsbD_bitPos _ _ _ (Nat.lt_succ_self k) (by omega)⟩

/-! ### The whole transfer -/

/-- Sixteen edges and the completion after a start step are one exchange (R166). -/
theorem startTransfer_edges_complete {s : State} (out : Byte) (hon : s.enabled = true)
    (hc : s.env.clockCovers 16 = true) : ((s.startTransfer out).edges 16).complete = s.exchanged out := by
  rw [startTransfer_edges out hon hc (Nat.le_refl 16), complete_afterEdges _ _ (startTransfer_shifting s out),
    startTransfer_incoming]
  obtain ⟨p, hp⟩ := startTransfer_eq s out
  rw [hp]
  rfl

/-- Settles O40: both sides are the exchange, seen without pins, EDGE and clock. -/
theorem sixteenEdgesEqualOneExchange : Obligations.SixteenEdgesEqualOneExchange := by
  intro s out hon hc
  rw [startTransfer_edges_complete out hon hc]
  exact ⟨rfl, rfl⟩

end Sys2Proof.Machine
end

section
/-! PROOFS. Commands whose clock suffices (40_bus_driver R130; 42_register_client R184 to R194): XFER, the transactions and RDAXES
as whole next states. -/

namespace Sys2Proof.Machine

/-! ### Words as the tables add them up -/

theorem ofNat_mul_eq_append {a : Nat} (ha : a ≤ 127) :
    BitVec.ofNat 32 (a * 256) = 0#4 ++ 0#13 ++ addressBits a ++ 0#8 := by
  apply BitVec.eq_of_toNat_eq
  simp only [BitVec.toNat_append, BitVec.toNat_ofNat, addressBits, Nat.zero_mod, Nat.shiftLeft_eq, Nat.zero_mul,
    Nat.zero_or, Nat.or_zero]
  omega

/-- A word of format AD as its parts added up (R96, R98). -/
theorem commandOf_eq_or (op : BitVec 4) {a : Nat} (ha : a ≤ 127) (d : Byte) : commandOf op (addressBits a) d
    = (op ++ 0#13 ++ 0#7 ++ 0#8) ||| BitVec.ofNat 32 (a * 256) ||| d.setWidth 32 := by
  have hdata : d.setWidth 32 = 0#4 ++ 0#13 ++ 0#7 ++ d := BitVec.setWidth_eq_append (by decide)
  have hop : (op ++ 0#13 ++ 0#7 ++ 0#8) ||| (0#4 ++ 0#13 ++ addressBits a ++ 0#8) = commandOf op (addressBits a) 0#8 := by
    rw [BitVec.or_append, BitVec.or_append, BitVec.or_append, BitVec.or_zero, BitVec.or_zero, BitVec.zero_or]
    rfl
  rw [ofNat_mul_eq_append ha, hop, hdata, commandOf, commandOf, BitVec.or_append, BitVec.or_append, BitVec.or_append, BitVec.or_zero,
    BitVec.or_zero, BitVec.or_zero, BitVec.zero_or]

theorem commandWord_rdreg {a : Nat} (ha : a ≤ 127) :
    commandWord (.rdreg a) = 0x50000000#32 ||| BitVec.ofNat 32 (a * 256) :=
  (commandOf_eq_or 5#4 ha 0#8).trans BitVec.or_zero

theorem commandWord_wrreg {a : Nat} (ha : a ≤ 127) (d : Byte) :
    commandWord (.wrreg a d) = 0x60000000#32 ||| BitVec.ofNat 32 (a * 256) ||| d.setWidth 32 :=
  commandOf_eq_or 6#4 ha d

theorem commandWord_rdaxes {b : Nat} (hb : b ≤ 127) :
    commandWord (.rdaxes b) = 0x70000000#32 ||| BitVec.ofNat 32 (b * 256) :=
  (commandOf_eq_or 7#4 hb 0#8).trans BitVec.or_zero

theorem commandWord_xfer (d : Byte) : commandWord (.xfer d) = 0x40000000#32 ||| d.setWidth 32 :=
  commandOf_eq_or 4#4 (Nat.zero_le 127) d

/-- The read header is the address with bit 7 set (R92). -/
theorem header_read {a : Nat} (ha : a ≤ 127) : header true a = 0x80#8 ||| BitVec.ofNat 8 a := by
  rw [header_true, header_false (Nat.lt_succ_of_le ha), BitVec.or_comm]

theorem header_write {a : Nat} (ha : a ≤ 127) : header false a = BitVec.ofNat 8 a := header_false (Nat.lt_succ_of_le ha)

/-! ### RDAXES between its reads -/

theorem axisReadsDone_add (s : State) (base k n : Nat) :
    s.axisReadsDone base (k + n) = (s.axisReadsDone base k).axisReadsDone base n := by
  induction k generalizing s with
  | zero => rw [Nat.zero_add]; rfl
  | succ k ih => rw [Nat.succ_add]; exact ih (s.axisReadDone base)

theorem axisReadsDone_succ (s : State) (base k : Nat) :
    s.axisReadsDone base (k + 1) = (s.axisReadsDone base k).axisReadDone base := axisReadsDone_add s base k 1

/-- After the last read, of the high byte of Z, no transaction follows (R192). -/
theorem AxisPoint.last {s : State} {n : Nat} (h : AxisPoint s .z true n) (base : Nat) : s.axisReadDone base
    = (s.framed (header true (axisAddress base s.ai s.hl)) dummyByte).assemble := by
  have hai : (s.framed (header true (axisAddress base s.ai s.hl)) dummyByte).assemble.ai = .z := h.ai
  rw [axisReadDone_high s base h.hl, State.nextAxis, hai]

/-- RDAXES has retired after its six reads, and a frame is open no more (R192). -/
theorem axisReadsDone_six_ready {s : State} (h : AxisPoint s .x false 192) (base : Nat) :
    (s.axisReadsDone base 6).ready = true := by
  have hlast := AxisPoint.after (k := 5) (n := 32) 0 h (by decide) base
  rw [axisReadsDone_succ, AxisPoint.last hlast, ready_iff]
  exact ⟨rfl, hlast.enabled, rfl⟩

theorem axisReadsDone_six_shifting {s : State} (h : AxisPoint s .x false 192) (base : Nat) :
    (s.axisReadsDone base 6).shifting = false := by
  have hlast := AxisPoint.after (k := 5) (n := 32) 0 h (by decide) base
  rw [axisReadsDone_succ, AxisPoint.last hlast]
  rfl

/-! ### The next states -/

/-- The state in which RDAXES begins its first read. -/
def State.axesAccepted (s : State) (base : Nat) : State := (s.accept (commandWord (.rdaxes base)) .select).startAxes

theorem axesAccepted_point {s : State} (hs : s.ready = true) (base : Nat) {n : Nat} (hc : s.env.clockCovers n = true) :
    AxisPoint (s.axesAccepted base) .x false n := ⟨rfl, rfl, enabled_of_ready (s := s) hs, hc, rfl, rfl⟩

theorem exec_xfer_complete {s : State} (hidle : s.seq = .idle) (hon : s.enabled = true)
    (hc : s.env.clockCovers 16 = true) (d : Byte) :
    exec (.xfer d) s = .next (((s.accept (commandWord (.xfer d)) .data).exchanged d).goTo .idle) := by
  refine exec_xfer_next.mpr ⟨hidle, hon, ?_⟩
  rw [transfer_complete (s.accept _ _) d rfl hon hc, advance_done rfl]

theorem exec_transaction_complete {i : Instr} {rw : Bool} {a : Nat} {d : Byte} (hi : transactionOf i = some (rw, a, d))
    {s : State} (hs : s.ready = true) (ha : a ≤ 127) (hc : s.env.clockCovers 32 = true) :
    exec i s = .next ((s.accept (commandWord i) .select).framed (header rw a) (dataByte rw d)) :=
  (exec_transaction_next hi).mpr ⟨hs, addressInRange_iff.mpr ha,
    transaction_complete (s.accept _ _) rw a d rfl rfl (enabled_of_ready (s := s) hs) hc⟩

theorem exec_rdaxes_complete {b : Nat} {s : State} (hs : s.ready = true) (hb : b + 5 ≤ 127)
    (hc : s.env.clockCovers 192 = true) : exec (.rdaxes b) s = .next ((s.axesAccepted b).axisReadsDone b 6) :=
  exec_rdaxes_next.mpr ⟨hs, baseInRange_iff.mpr hb, runAxes_done _ b (axesAccepted_point hs b hc)⟩

/-- A complete transaction from acceptance on, field by field, with the environment's answers (R182). -/
theorem exec_transaction_fields {i : Instr} {rw : Bool} {a : Nat} {d : Byte} (hi : transactionOf i = some (rw, a, d))
    {s : State} (hs : s.ready = true) (ha : a ≤ 127) (hc : s.env.clockCovers 32 = true) : ∃ i0 i1,
    s.env.answersIn s.trace (frameEvents (header rw a) i0 (dataByte rw d) i1) = true
      ∧ exec i s = .next { s with
        rxd := i1, txsr := dataByte rw d, rxsr := i1, stat := s.stat ||| tcMask
        trace := s.trace ++ frameEvents (header rw a) i0 (dataByte rw d) i1, cmdr := commandWord i
        held := { s.held with cmdr := true, txsr := true, rxsr := 0xFF#8, rxd := true }
        sck := .driven s.cpol, sdo := .driven ((dataByte rw d).getLsbD (if s.lsbFirst then 7 else 0)), edge := 16
        shifting := false, env := (s.env.answeredTimes 2).clockUsed 32 } := by
  obtain ⟨hidle, -, hcsn⟩ := (ready_iff s).mp hs
  obtain ⟨i0, i1, h0, h1, hframed⟩ := framed_eq (s.accept (commandWord i) .select) (header rw a) (dataByte rw d)
  refine ⟨i0, i1, ?_, ?_⟩
  · rw [h1, h0]
    exact answersIn_frameEvents s.env s.trace (header rw a) (dataByte rw d)
  · rw [exec_transaction_complete hi hs ha hc, hframed, hidle, hcsn]
    rfl

/-! ### One register -/

theorem dummyByte_getLsbD (i : Nat) : dummyByte.getLsbD i = false := BitVec.getLsbD_zero

/-- Settles O19: the fields of a complete transaction with the read header and the dummy byte. -/
theorem rdregReadsOneRegister : Obligations.RdregReadsOneRegister := by
  intro a s ha hs hc
  obtain ⟨i0, i1, hanswers, hexec⟩ := exec_transaction_fields (i := .rdreg a) rfl hs ha hc
  rw [show dataByte true dummyByte = dummyByte from rfl, dummyByte_getLsbD, commandWord_rdreg ha, header_read ha] at hexec
  rw [header_read ha] at hanswers
  exact ⟨i0, i1, _, hanswers, congrArg CodeWord.command (commandWord_rdreg ha), hexec⟩

/-- Settles O20: the fields of a complete transaction with the write header and the value. -/
theorem wrregWritesOneRegister : Obligations.WrregWritesOneRegister := by
  intro a v s ha hs hc
  obtain ⟨i0, i1, hanswers, hexec⟩ := exec_transaction_fields (i := .wrreg a v) rfl hs ha hc
  rw [commandWord_wrreg ha, header_write ha] at hexec
  rw [header_write ha] at hanswers
  refine ⟨i0, i1, _, hanswers, ?_, congrArg CodeWord.command (commandWord_wrreg ha v), hexec⟩
  rw [← header_write ha, header_getLsbD_seven]

/-- A wire frame is its header byte above its data byte (R91). -/
theorem frameOf_high (rw : Bool) (a : Nat) (d : Byte) : (frameOf rw (addressBits a) d).extractLsb' 8 8 = header rw a :=
  BitVec.extractLsb'_append_eq_left

theorem frameOf_low (rw : Bool) (a : Nat) (d : Byte) : (frameOf rw (addressBits a) d).extractLsb' 0 8 = d :=
  BitVec.extractLsb'_append_eq_right

/-- Settles O23: the bytes a transaction sends are the two halves of the wire frame's word. -/
theorem wireFramePutsItsBytesOnTheBus : Obligations.WireFramePutsItsBytesOnTheBus := by
  refine ⟨fun a s ha hs hc => ?_, fun a v s ha hs hc => ?_⟩
  · obtain ⟨hidle, -, hcsn⟩ := (ready_iff s).mp hs
    obtain ⟨i0, i1, hanswers, hexec⟩ := exec_transaction_fields (i := .rdframe a) rfl hs ha hc
    refine ⟨_, i0, i1, _, rfl, hexec, hidle, hcsn, ?_, rfl, frameRead_frameOf true _ _, rfl, rfl, ?_⟩
    · rw [frameOf_high, frameOf_low]; rfl
    · rw [frameOf_high, frameOf_low]; exact hanswers
  · obtain ⟨hidle, -, hcsn⟩ := (ready_iff s).mp hs
    obtain ⟨i0, i1, hanswers, hexec⟩ := exec_transaction_fields (i := .wrframe a v) rfl hs ha hc
    refine ⟨_, i0, i1, _, rfl, hexec, hidle, hcsn, ?_, rfl, frameRead_frameOf false _ _, rfl, rfl, ?_⟩
    · rw [frameOf_high, frameOf_low]; rfl
    · rw [frameOf_high, frameOf_low]; exact hanswers

end Sys2Proof.Machine
end

section
/-! PROOFS. Commands whose clock stops (40_bus_driver R134; 42_register_client R195; 60_exceptions R216), and that every command
retires, is refused or waits (R217). -/

namespace Sys2Proof.Machine

/-! ### The clock -/

theorem clockCovers_or_stops (e : Env) (n : Nat) : e.clockCovers n = true ∨ ∃ m, e.clock = some m ∧ m < n := by
  cases hclock : e.clock with
  | none => exact .inl (Env.clockCovers_none hclock n)
  | some m =>
    rw [Env.clockCovers_some hclock]
    exact (Nat.lt_or_ge m n).symm.imp_right fun hm => ⟨m, rfl, hm⟩

theorem clockCovers_zero (e : Env) : e.clockCovers 0 = true := (clockCovers_iff e 0).mpr fun m _ => Nat.zero_le m

/-! ### Waiting states -/

/-- `t` waits in the address or data byte of a transfer for a clock that has stopped (R134, R195). -/
structure WaitsForClock (t : State) : Prop where
  seq : t.seq = .addr ∨ t.seq = .data
  shifting : t.shifting = true
  edge : t.edge < 16
  clock : t.env.clock = some 0

theorem WaitsForClock.notIdle {t : State} (h : WaitsForClock t) : t.seq ≠ .idle := by
  obtain hseq | hseq := h.seq <;> rw [hseq] <;> decide

theorem WaitsForClock.waiting {t : State} (h : WaitsForClock t) : t.waiting = true := by
  have hstopped : t.env.clockRunning = false := by rw [Env.clockRunning, h.clock]; rfl
  rw [State.waiting, h.shifting, decide_eq_true h.edge, hstopped, Bool.and_false]
  rfl

theorem step_of_busy {t : State} (h : t.seq ≠ .idle) : step t = t.resume := by
  rw [step, (busy_iff t).mpr h, if_pos rfl]

/-- With no clock to come the machine is stuck (R216). -/
theorem WaitsForClock.stuck {t : State} (h : WaitsForClock t) (hlater : t.env.clockLater = []) :
    step t = .fault .stuck := by
  rw [step_of_busy h.notIdle, State.resume, h.waiting, if_pos rfl, hlater]

/-! ### The states in which the commands wait -/

/-- A transfer of `out` started in `s` and stopped after m edges (R134). -/
def State.stopped (s : State) (out : Byte) (m : Nat) : State := afterEdges (s.startTransfer out) m (some 0)

theorem tc_eq_false_of_cleared {s : State} {b : BitVec 16} (h : s.stat = b &&& ~~~tcMask) : s.tc = false := by
  rw [State.tc, h, BitVec.getLsbD_and]
  exact Bool.and_false _

theorem clear_set_tc (b : BitVec 16) : (b &&& ~~~tcMask) ||| tcMask = b ||| tcMask := by
  apply BitVec.eq_of_getLsbD_eq
  intro i hi
  simp only [BitVec.getLsbD_or, BitVec.getLsbD_and, BitVec.getLsbD_not, hi, decide_true, Bool.true_and]
  cases b.getLsbD i <;> cases tcMask.getLsbD i <;> rfl

/-- What a stopped transfer shows besides its pins, RXSR and the flags of its bits (R160). -/
theorem stopped_eq (s : State) (out : Byte) (m : Nat) : ∃ sck sdo r h, s.stopped out m =
    { s with
      stat := s.stat &&& ~~~tcMask, txsr := out, shifting := true, edge := m, sck := sck, sdo := sdo, rxsr := r
      held := { s.held with txsr := true, rxsr := h }, env := { s.env with clock := some 0 } } := by
  rw [State.stopped, startTransfer_fields]
  exact ⟨_, _, _, _, rfl⟩

/-- Where a transaction stops in its address byte (R195). -/
def State.stoppedInAddr (s : State) (hdr : Byte) (m : Nat) : State :=
  (((s.driveCsn false).emit .select).goTo .addr).stopped hdr m

/-- Where a transaction stops in its data byte (R195). -/
def State.stoppedInData (s : State) (hdr out : Byte) (m : Nat) : State :=
  ((((s.driveCsn false).emit .select).exchanged hdr).goTo .data).stopped out m

theorem stoppedInAddr_eq (s : State) (hdr : Byte) (m : Nat) : ∃ sck sdo r h, s.stoppedInAddr hdr m =
    { s with
      csn := .driven false, trace := s.trace ++ [.select], seq := .addr
      stat := s.stat &&& ~~~tcMask, txsr := hdr, shifting := true, edge := m, sck := sck, sdo := sdo, rxsr := r
      held := { s.held with txsr := true, rxsr := h }, env := { s.env with clock := some 0 } } :=
  stopped_eq _ hdr m

theorem stoppedInData_eq (s : State) (hdr out : Byte) (m : Nat) : ∃ sck sdo r h b, s.stoppedInData hdr out m =
    { s with
      csn := .driven false, seq := .data, rxd := s.env.reply (s.trace ++ [.select]) hdr
      trace := s.trace ++ [.select, .send hdr (s.env.reply (s.trace ++ [.select]) hdr)]
      stat := b &&& ~~~tcMask, txsr := out, shifting := true, edge := m, sck := sck, sdo := sdo, rxsr := r
      held := { s.held with rxd := true, txsr := true, rxsr := h }, env := { s.env.answered with clock := some 0 } } := by
  obtain ⟨sck, sdo, r, h, heq⟩ := stopped_eq ((((s.driveCsn false).emit .select).exchanged hdr).goTo .data) out m
  refine ⟨sck, sdo, r, h, (s.exchanged hdr).stat, heq.trans ?_⟩
  rw [List.append_cons s.trace BusEvent.select [BusEvent.send hdr (s.env.reply (s.trace ++ [BusEvent.select]) hdr)]]
  rfl

theorem exec_xfer_cut {s : State} (hidle : s.seq = .idle) (hon : s.enabled = true) {m : Nat} (hc : s.env.clock = some m)
    (hm : m < 16) (d : Byte) : exec (.xfer d) s = .next ((s.accept (commandWord (.xfer d)) .data).stopped d m) := by
  refine exec_xfer_next.mpr ⟨hidle, hon, ?_⟩
  rw [transfer_cut (s.accept _ _) d m rfl hon hc hm]
  exact advance_waiting (s := State.stopped _ d m) (startTransfer_shifting _ d) .idle

section
variable {i : Instr} {rw : Bool} {a : Nat} {d : Byte} (hi : transactionOf i = some (rw, a, d)) {s : State}
  (hs : s.ready = true) (ha : a ≤ 127) {m : Nat} (hm : m < 16)
include hi hs ha hm

theorem exec_transaction_cut_addr (hc : s.env.clock = some m) :
    exec i s = .next ((s.accept (commandWord i) .select).stoppedInAddr (header rw a) m) :=
  (exec_transaction_next hi).mpr ⟨hs, addressInRange_iff.mpr ha,
    transaction_cut_addr (s.accept _ _) rw a d m rfl rfl (enabled_of_ready (s := s) hs) hc hm⟩

theorem exec_transaction_cut_data (hc : s.env.clock = some (16 + m)) :
    exec i s = .next ((s.accept (commandWord i) .select).stoppedInData (header rw a) (dataByte rw d) m) :=
  (exec_transaction_next hi).mpr ⟨hs, addressInRange_iff.mpr ha,
    transaction_cut_data (s.accept _ _) rw a d m rfl rfl (enabled_of_ready (s := s) hs) hc hm⟩

end

/-- RDAXES stops in its read m / 32, the reads before it done (R195). -/
theorem exec_rdaxes_cut {b : Nat} {s : State} (hs : s.ready = true) (hb : b + 5 ≤ 127) {m : Nat}
    (hc : s.env.clock = some m) (hm : m < 192) : ∃ t, exec (.rdaxes b) s = .next t
      ∧ t = ((s.axesAccepted b).axisReadsDone b (m / 32)).axisTransaction b ∧ WaitsForClock t ∧ t.csn = .driven false
      ∧ t.seq = if m % 32 < 16 then .addr else .data := by
  have hpoint := axesAccepted_point hs b ((Env.clockCovers_some hc m).mpr (Nat.le_refl m))
  obtain ⟨t, hrun, ht, hshifting, hedge, hclock, hcsn, hseq⟩ := runAxes_cut _ b m hpoint hc hm
  refine ⟨t, exec_rdaxes_next.mpr ⟨hs, baseInRange_iff.mpr hb, hrun⟩, ht, ⟨?_, hshifting, ?_, hclock⟩, hcsn, hseq⟩
  · rw [hseq]; split <;> simp
  · rw [hedge]; exact Nat.mod_lt m (by decide)

/-! ### XFER -/

/-- Settles O17: the exchange between acceptance and retirement as one update, and the state a stopped clock leaves. -/
theorem xferExchangesOneByte : Obligations.XferExchangesOneByte := by
  intro d s hidle hon
  refine ⟨congrArg CodeWord.command (commandWord_xfer d), fun hc => ?_, fun m hclock hm => ?_⟩
  · refine ⟨commandWord (.xfer d), d.getLsbD (s.pos 7), { s.env.answered with clock := s.env.clock.map (· - 16) }, ?_⟩
    rw [exec_xfer_complete hidle hon hc, hidle, show 0x0001#16 = tcMask from rfl, ← clear_set_tc]
    rfl
  · obtain ⟨sck, sdo, r, h, heq⟩ := stopped_eq (s.accept (commandWord (.xfer d)) .data) d m
    have hexec := exec_xfer_cut hidle hon hclock hm d
    rw [heq] at hexec
    exact ⟨_, hexec, Seq.noConfusion, tc_eq_false_of_cleared rfl⟩

/-- Settles O18: XFER stopped after m edges, and the step of a machine that no clock comes back to. -/
theorem xferWithoutClockNeverRetires : Obligations.XferWithoutClockNeverRetires := by
  intro d s m hidle hon hm
  have hexec := exec_xfer_cut (s := s.withClock (some m) []) hidle hon rfl hm d
  obtain ⟨sck, sdo, r, h, heq⟩ := stopped_eq ((s.withClock (some m) []).accept (commandWord (.xfer d)) .data) d m
  rw [heq] at hexec
  exact ⟨_, hexec, Seq.noConfusion, tc_eq_false_of_cleared rfl, rfl, rfl, rfl, rfl, rfl,
    WaitsForClock.stuck ⟨.inr rfl, rfl, hm, rfl⟩ rfl⟩

/-! ### Register commands -/

/-- Settles O27: the transaction stopped in its address byte or in its data byte, both waiting with the frame open. -/
theorem cutRegisterCommandLeavesItsFrameOpen : Obligations.CutRegisterCommandLeavesItsFrameOpen := by
  intro rw a v i s m hs ha hm hi
  obtain ⟨d, hbody, hd⟩ : ∃ d, transactionOf i = some (rw, a, d) ∧ dataByte rw d = dataByte rw v := by
    obtain ⟨rfl, rfl | rfl⟩ | ⟨rfl, rfl | rfl⟩ := hi <;> exact ⟨_, rfl, rfl⟩
  by_cases haddr : m < 16
  · have hexec := exec_transaction_cut_addr hbody (s := s.withClock (some m) []) hs ha haddr rfl
    obtain ⟨sck, sdo, r, h, heq⟩ := stoppedInAddr_eq ((s.withClock (some m) []).accept (commandWord i) .select)
      (header rw a) m
    rw [heq] at hexec
    exact ⟨_, hexec, rfl, tc_eq_false_of_cleared rfl, (if_pos haddr).symm, (Nat.mod_eq_of_lt haddr).symm,
      fun _ => ⟨rfl, rfl, rfl⟩, fun hge => absurd haddr hge.not_gt,
      WaitsForClock.stuck ⟨.inl rfl, rfl, haddr, rfl⟩ rfl⟩
  · obtain ⟨n, rfl⟩ : ∃ n, m = 16 + n := ⟨m - 16, by omega⟩
    have hdata : n < 16 := by omega
    have hexec := exec_transaction_cut_data hbody (s := s.withClock (some (16 + n)) []) hs ha hdata rfl
    obtain ⟨sck, sdo, r, h, b, heq⟩ := stoppedInData_eq ((s.withClock (some (16 + n)) []).accept (commandWord i) .select)
      (header rw a) (dataByte rw d) n
    rw [heq] at hexec
    exact ⟨_, hexec, rfl, tc_eq_false_of_cleared rfl, (if_neg haddr).symm,
      ((Nat.add_mod_left 16 n).trans (Nat.mod_eq_of_lt hdata)).symm, fun hlt => absurd hlt haddr, fun _ => ⟨rfl, rfl, hd⟩,
      WaitsForClock.stuck ⟨.inr rfl, rfl, hdata, rfl⟩ rfl⟩

/-! ### The environment a complete command has used -/

theorem clockUsed_zero (e : Env) : e.clockUsed 0 = e := by
  cases e with
  | mk program answers draws clock later => cases clock <;> rfl

theorem clockUsed_clockUsed (e : Env) (m n : Nat) : (e.clockUsed m).clockUsed n = e.clockUsed (m + n) := by
  cases e with
  | mk program answers draws clock later =>
    cases clock with
    | none => rfl
    | some c => exact congrArg (fun c => Env.mk program answers draws (some c) later) (Nat.sub_sub c m n)

theorem clockUsed_answeredTimes (e : Env) (m n : Nat) :
    (e.clockUsed m).answeredTimes n = (e.answeredTimes n).clockUsed m := by
  induction n generalizing e with
  | zero => rfl
  | succ n ih => exact ih e.answered

theorem answeredTimes_answeredTimes (e : Env) (m n : Nat) :
    (e.answeredTimes m).answeredTimes n = e.answeredTimes (m + n) := by
  induction m generalizing e with
  | zero => rw [Nat.zero_add]; rfl
  | succ m ih => rw [Nat.succ_add]; exact ih e.answered

theorem framed_env (s : State) (hdr out : Byte) : (s.framed hdr out).env = (s.env.answeredTimes 2).clockUsed 32 := by
  obtain ⟨i0, i1, -, -, hframed⟩ := framed_eq s hdr out
  rw [hframed]

theorem axisLatch_env (s : State) : s.axisLatch.env = s.env := by
  unfold State.axisLatch State.nextAxis
  repeat' split
  all_goals rfl

theorem axisReadsDone_env (s : State) (base k : Nat) :
    (s.axisReadsDone base k).env = (s.env.answeredTimes (2 * k)).clockUsed (32 * k) := by
  induction k generalizing s with
  | zero => exact (clockUsed_zero s.env).symm
  | succ k ih =>
    rw [State.axisReadsDone, ih, State.axisReadDone, axisLatch_env, framed_env, clockUsed_answeredTimes,
      answeredTimes_answeredTimes, clockUsed_clockUsed, Nat.add_comm 2, Nat.add_comm 32]
    rfl

/-! ### Every command retires, is refused or waits -/

theorem edgesNeeded_transaction {i : Instr} {rw : Bool} {a : Nat} {d : Byte} (hi : transactionOf i = some (rw, a, d)) :
    edgesNeeded i = 32 := by
  cases i with
  | rdreg | wrreg | rdframe | wrframe => rfl
  | init | select | deselect | xfer | rdaxes => cases hi

/-- What a command leaves that answers a next state: retired, the environment used as far as the command needs it, or waiting
for the clock. -/
theorem exec_retired_or_waits {i : Instr} {s t : State} (h : exec i s = .next t) :
    (t.seq = .idle ∧ s.env.clockCovers (edgesNeeded i) = true
      ∧ ∃ k, edgesNeeded i = 16 * k ∧ t.env = (s.env.answeredTimes k).clockUsed (edgesNeeded i)) ∨ WaitsForClock t := by
  cases bodyKind i with
  | init cfg =>
    obtain ⟨-, -, -, rfl⟩ := execInit_next.mp h
    exact .inl ⟨rfl, clockCovers_zero _, 0, rfl, (clockUsed_zero s.env).symm⟩
  | select =>
    obtain ⟨-, -, rfl⟩ := execSelect_next.mp h
    exact .inl ⟨rfl, clockCovers_zero _, 0, rfl, (clockUsed_zero s.env).symm⟩
  | deselect =>
    obtain ⟨-, -, rfl⟩ := execDeselect_next.mp h
    exact .inl ⟨rfl, clockCovers_zero _, 0, rfl, (clockUsed_zero s.env).symm⟩
  | xfer d =>
    obtain ⟨hidle, hon, -⟩ := exec_xfer_next.mp h
    obtain hc | ⟨m, hc, hm⟩ := clockCovers_or_stops s.env 16
    · cases h.symm.trans (exec_xfer_complete hidle hon hc d)
      exact .inl ⟨rfl, hc, 1, rfl, rfl⟩
    · cases h.symm.trans (exec_xfer_cut hidle hon hc hm d)
      obtain ⟨sck, sdo, r, h, heq⟩ := stopped_eq (s.accept (commandWord (.xfer d)) .data) d m
      rw [heq]
      exact .inr ⟨.inr rfl, rfl, hm, rfl⟩
  | @transaction _ rw a d hbody =>
    obtain ⟨hs, ha, -⟩ := (exec_transaction_next hbody).mp h
    rw [addressInRange_iff] at ha
    rw [edgesNeeded_transaction hbody]
    obtain hc | ⟨m, hc, hm⟩ := clockCovers_or_stops s.env 32
    · cases h.symm.trans (exec_transaction_complete hbody hs ha hc)
      exact .inl ⟨rfl, hc, 2, rfl, framed_env _ _ _⟩
    · by_cases haddr : m < 16
      · cases h.symm.trans (exec_transaction_cut_addr hbody hs ha haddr hc)
        obtain ⟨sck, sdo, r, h, heq⟩ := stoppedInAddr_eq (s.accept (commandWord i) .select) (header rw a) m
        rw [heq]
        exact .inr ⟨.inl rfl, rfl, haddr, rfl⟩
      · obtain ⟨n, rfl⟩ : ∃ n, m = 16 + n := ⟨m - 16, by omega⟩
        have hdata : n < 16 := by omega
        cases h.symm.trans (exec_transaction_cut_data hbody hs ha hdata hc)
        obtain ⟨sck, sdo, r, h, b, heq⟩ := stoppedInData_eq (s.accept (commandWord i) .select) (header rw a)
          (dataByte rw d) n
        rw [heq]
        exact .inr ⟨.inr rfl, rfl, hdata, rfl⟩
  | rdaxes b =>
    obtain ⟨hs, hb, -⟩ := exec_rdaxes_next.mp h
    rw [baseInRange_iff] at hb
    obtain hc | ⟨m, hc, hm⟩ := clockCovers_or_stops s.env 192
    · cases h.symm.trans (exec_rdaxes_complete hs hb hc)
      obtain ⟨hidle, -⟩ := (ready_iff _).mp (axisReadsDone_six_ready (axesAccepted_point hs b hc) b)
      exact .inl ⟨hidle, hc, 12, rfl, axisReadsDone_env (s.axesAccepted b) b 6⟩
    · obtain ⟨t', hexec, -, hwaits, -⟩ := exec_rdaxes_cut hs hb hc hm
      cases h.symm.trans hexec
      exact .inr hwaits

/-- Settles O22: a command that has retired had all the clock it needs. -/
theorem aRetiredCommandHasUsedItsAnswersAndEdges : Obligations.ARetiredCommandHasUsedItsAnswersAndEdges := by
  intro i s t h hidle
  obtain ⟨-, hc, k, hk, henv⟩ | hwaits := exec_retired_or_waits h
  · have hanswers : edgesNeeded i / 16 = k := by rw [hk, Nat.mul_div_cancel_left k (by decide)]
    exact ⟨hanswers ▸ henv, hc⟩
  · exact absurd hidle hwaits.notIdle

/-- No acceptance check is a fault (R210, R217). -/
theorem exec_refused_or_next (i : Instr) (s : State) : (∃ r, exec i s = .refused r) ∨ ∃ t, exec i s = .next t := by
  have whenEnabled_cases (k : State → State) : (∃ r, whenEnabled s k = .refused r) ∨ ∃ t, whenEnabled s k = .next t := by
    unfold whenEnabled
    repeat' split
    all_goals simp
  have whenFrameFree_cases (inRange : Bool) (k : State → State) :
      (∃ r, whenFrameFree s inRange k = .refused r) ∨ ∃ t, whenFrameFree s inRange k = .next t := by
    unfold whenFrameFree
    repeat' split
    all_goals simp
  cases bodyKind i with
  | init cfg =>
    show (∃ r, execInit cfg s = .refused r) ∨ ∃ t, execInit cfg s = .next t
    unfold execInit
    repeat' split
    all_goals simp
  | select => rw [exec_select]; exact whenEnabled_cases _
  | deselect => rw [exec_deselect]; exact whenEnabled_cases _
  | xfer d => rw [exec_xfer]; exact whenEnabled_cases _
  | transaction hbody => rw [exec_transaction hbody]; exact whenFrameFree_cases _ _
  | rdaxes b => rw [exec_rdaxes]; exact whenFrameFree_cases _ _

/-- Settles O48: the checks refuse or accept, and what is accepted has retired or waits. -/
theorem aCommandRetiresIsRefusedOrWaits : Obligations.ACommandRetiresIsRefusedOrWaits := by
  intro i s
  obtain hrefused | ⟨t, hnext⟩ := exec_refused_or_next i s
  · exact .inl hrefused
  · obtain ⟨hidle, -⟩ | hwaits := exec_retired_or_waits hnext
    · exact .inr ⟨t, hnext, .inl hidle⟩
    · exact .inr ⟨t, hnext, .inr hwaits.waiting⟩

end Sys2Proof.Machine
end

section
/-! PROOFS. RDAXES read by read (42_register_client R192 to R195): the samples it assembles, and those it keeps when its clock
stops. -/

namespace Sys2Proof.Machine

/-! ### Two reads make a sample -/

theorem nextAxis_env (s : State) : s.nextAxis.env = s.env := by
  unfold State.nextAxis
  split <;> rfl

theorem nextAxis_trace (s : State) : s.nextAxis.trace = s.trace := by
  unfold State.nextAxis
  split <;> rfl

theorem or_tc_twice (b : BitVec 16) : b ||| tcMask ||| tcMask = b ||| tcMask := by rw [BitVec.or_assoc, BitVec.or_self]

/-- The frame of one register read (R184). -/
def readFrame (a : Nat) (j b : Byte) : List BusEvent := frameEvents (0x80#8 ||| BitVec.ofNat 8 a) j 0x00#8 b

/-- One complete read of RDAXES before its latch, field by field (R186, R192). -/
theorem axisReadDone_fields {s : State} {base a : Nat} (haddr : axisAddress base s.ai s.hl = a) (ha : a ≤ 127) :
    ∃ j b, s.env.answersIn s.trace (readFrame a j b) = true
      ∧ s.axisReadDone base = State.axisLatch { s with
        rxd := b, txsr := 0x00#8, rxsr := b, stat := s.stat ||| tcMask, trace := s.trace ++ readFrame a j b
        held := { s.held with rxd := true, txsr := true, rxsr := 0xFF#8 }
        csn := .driven true, sck := .driven s.cpol, sdo := .driven false, edge := 16, shifting := false, seq := .idle
        env := (s.env.answeredTimes 2).clockUsed 32 } := by
  obtain ⟨j, b, hj, hb, hframed⟩ := framed_eq s (0x80#8 ||| BitVec.ofNat 8 a) dummyByte
  have hanswers := answersIn_frameEvents s.env s.trace (0x80#8 ||| BitVec.ofNat 8 a) dummyByte
  rw [← hj, ← hb] at hanswers
  refine ⟨j, b, hanswers, ?_⟩
  rw [State.axisReadDone, haddr, header_read ha, hframed, dummyByte_getLsbD]
  rfl

/-- Both reads of an axis, field by field (R192, R194). -/
theorem axisReadsDone_two {s : State} {base low : Nat} (hhl : s.hl = false) (hlow : base + 2 * s.ai.index = low)
    (hrange : low + 1 ≤ 127) :
    ∃ j0 b0 j1 b1, s.env.answersIn s.trace (readFrame low j0 b0 ++ readFrame (low + 1) j1 b1) = true
      ∧ s.axisReadsDone base 2 = State.nextAxis { s with
        axis := s.axis.set s.ai (b1 ++ b0), lob := b0, hl := false, rxd := b1, txsr := 0x00#8, rxsr := b1
        stat := s.stat ||| tcMask, trace := s.trace ++ (readFrame low j0 b0 ++ readFrame (low + 1) j1 b1)
        held := { s.held with
          rxd := true, axis := s.held.axis.set s.ai true, txsr := true, rxsr := 0xFF#8, lob := true }
        csn := .driven true, sck := .driven s.cpol, sdo := .driven false, edge := 16, shifting := false, seq := .idle
        env := (s.env.answeredTimes 4).clockUsed 64 } := by
  obtain ⟨j0, b0, hanswers0, hread0⟩ := axisReadDone_fields (s := s) (base := base) (a := low)
    (by rw [hhl, ← hlow]; rfl) (by omega)
  rw [State.axisLatch, if_neg (by simp [hhl])] at hread0
  obtain ⟨j1, b1, hanswers1, hread1⟩ := axisReadDone_fields (s := s.axisReadDone base) (base := base) (a := low + 1)
    (by rw [hread0, ← hlow]; rfl) hrange
  refine ⟨j0, b0, j1, b1, ?_, ?_⟩
  · have henv : (s.axisReadDone base).env = (s.env.answeredTimes 2).clockUsed 32 := by rw [hread0]; rfl
    have htrace : (s.axisReadDone base).trace = s.trace ++ readFrame low j0 b0 := by rw [hread0]; rfl
    rw [henv, htrace] at hanswers1
    refine (answersIn_frameEvents_append _ _ _ _ _ _ _).trans (Bool.and_eq_true_iff.mpr ⟨hanswers0, ?_⟩)
    exact (answersIn_clock _ _ _ _).symm.trans hanswers1
  · have henv : (s.env.answeredTimes 4).clockUsed 64 = (((s.env.answeredTimes 2).clockUsed 32).answeredTimes 2).clockUsed 32 := by
      rw [clockUsed_answeredTimes, answeredTimes_answeredTimes, clockUsed_clockUsed]
    rw [← List.append_assoc, ← or_tc_twice s.stat, henv, State.axisReadsDone, State.axisReadsDone, State.axisReadsDone,
      hread1, hread0]
    rfl

/-- Answers after the two frames of an axis are those of the environment after four transfers (R66). -/
theorem answersIn_readFrames_append (e : Env) (before : List BusEvent) (a0 a1 : Nat) (j0 b0 j1 b1 : Byte)
    (rest : List BusEvent) : e.answersIn before (readFrame a0 j0 b0 ++ readFrame a1 j1 b1 ++ rest)
      = (e.answersIn before (readFrame a0 j0 b0 ++ readFrame a1 j1 b1)
        && (e.answeredTimes 4).answersIn (before ++ (readFrame a0 j0 b0 ++ readFrame a1 j1 b1)) rest) := by
  simp only [readFrame, List.append_assoc, answersIn_frameEvents_append, Bool.and_assoc, answeredTimes_answeredTimes]

/-- The six read frames by axes (R192). -/
theorem axisFrames_eq (base : Nat) (j b : Nat → Byte) : axisFrames base j b =
    readFrame base (j 0) (b 0) ++ readFrame (base + 1) (j 1) (b 1)
      ++ (readFrame (base + 2) (j 2) (b 2) ++ readFrame (base + 3) (j 3) (b 3)
        ++ (readFrame (base + 4) (j 4) (b 4) ++ readFrame (base + 5) (j 5) (b 5))) := rfl

/-- Settles O21: the two reads of each axis in turn, the answers collected. -/
theorem rdaxesAssemblesThreeSamples : Obligations.RdaxesAssemblesThreeSamples := by
  intro base s hrange hs hc
  obtain ⟨hidle, -, hcsn⟩ := (ready_iff s).mp hs
  obtain ⟨j0, b0, j1, b1, hanswersX, hx⟩ := axisReadsDone_two (s := s.axesAccepted base) (base := base) (low := base) rfl rfl
    (by omega)
  have hexec := exec_rdaxes_complete hs hrange hc
  rw [axisReadsDone_add _ base 2 4, axisReadsDone_add _ base 2 2] at hexec
  generalize hu : (s.axesAccepted base).axisReadsDone base 2 = u at hx hexec
  obtain ⟨j2, b2, j3, b3, hanswersY, hy⟩ := axisReadsDone_two (s := u) (base := base) (low := base + 2) (by rw [hx]; rfl)
    (by rw [hx]; rfl) (by omega)
  generalize hv : u.axisReadsDone base 2 = v at hy hexec
  obtain ⟨j4, b4, j5, b5, hanswersZ, hz⟩ := axisReadsDone_two (s := v) (base := base) (low := base + 4) (by rw [hy, hx]; rfl)
    (by rw [hy, hx]; rfl) (by omega)
  refine ⟨([j0, j1, j2, j3, j4, j5].getD · 0), ([b0, b1, b2, b3, b4, b5].getD · 0),
    (v.env.answeredTimes 4).clockUsed 64, ?_, congrArg CodeWord.command (commandWord_rdaxes (by omega)), ?_⟩
  · have henvY : u.env = (s.env.answeredTimes 4).clockUsed 64 := by rw [hx]; rfl
    have henvZ : v.env = ((s.env.answeredTimes 4).answeredTimes 4).clockUsed 128 := by
      rw [← clockUsed_clockUsed _ 64 64, ← clockUsed_answeredTimes, ← henvY, hy, nextAxis_env]
    have htraceY : u.trace = s.trace ++ (readFrame base j0 b0 ++ readFrame (base + 1) j1 b1) := by rw [hx]; rfl
    have htraceZ : v.trace = u.trace ++ (readFrame (base + 2) j2 b2 ++ readFrame (base + 3) j3 b3) := by
      rw [hy, nextAxis_trace]
    rw [henvY, htraceY] at hanswersY
    rw [henvZ, htraceZ, htraceY] at hanswersZ
    rw [axisFrames_eq, answersIn_readFrames_append, answersIn_readFrames_append, Bool.and_eq_true, Bool.and_eq_true]
    exact ⟨hanswersX, (answersIn_clock _ _ _ _).symm.trans hanswersY, (answersIn_clock _ _ _ _).symm.trans hanswersZ⟩
  · have hstat : s.stat ||| 0x0001#16 = s.stat ||| tcMask ||| tcMask ||| tcMask := by rw [or_tc_twice, or_tc_twice]; rfl
    have htrace : s.trace ++ axisFrames base ([j0, j1, j2, j3, j4, j5].getD · 0) ([b0, b1, b2, b3, b4, b5].getD · 0)
        = s.trace ++ (readFrame base j0 b0 ++ readFrame (base + 1) j1 b1)
          ++ (readFrame (base + 2) j2 b2 ++ readFrame (base + 3) j3 b3)
          ++ (readFrame (base + 4) j4 b4 ++ readFrame (base + 5) j5 b5) := by
      rw [List.append_assoc, List.append_assoc, axisFrames_eq]
      rfl
    rw [htrace, hstat, hidle, hcsn, ← commandWord_rdaxes (by omega : base ≤ 127), hexec, hz, hy, hx]
    rfl

/-! ### The samples as the reads go on -/

theorem axisTransaction_frame (s : State) (base : Nat) : TransactionFrame s (s.axisTransaction base) :=
  transaction_frame s true _ dummyByte

theorem axisAt_index {k : Nat} (hk : k < 6) : (axisAt k).index = k / 2 := by
  interval_cases k <;> rfl

section
variable {s : State} (h : AxisPoint s .x false 192) (base : Nat)
include h

/-- RDAXES before its read k of the six. -/
theorem axisReadsDone_point {k : Nat} (hk : k ≤ 5) :
    AxisPoint (s.axisReadsDone base k) (axisAt k) (highAt k) (192 - 32 * k) := by
  have hpoint := AxisPoint.after (s := s) (k := k) (n := 192 - 32 * k) 0
    (by rw [show 32 * k + (192 - 32 * k) = 192 by omega]; exact h) (by omega) base
  rwa [Nat.zero_add] at hpoint

/-- Only read 2i + 1 of the six writes AXIS[i] (R192). -/
theorem axisReadsDone_axis_succ {k : Nat} (hk : k ≤ 5) {ax : Axis} (hne : k ≠ 2 * ax.index + 1) :
    (s.axisReadsDone base (k + 1)).axis.get ax = (s.axisReadsDone base k).axis.get ax
      ∧ (s.axisReadsDone base (k + 1)).held.axis.get ax = (s.axisReadsDone base k).held.axis.get ax := by
  have hpoint := axisReadsDone_point h base hk
  obtain ⟨v, haxis, hheld⟩ := axisReadDone_axis (s.axisReadsDone base k) base
  rw [axisReadsDone_succ, haxis, hheld, hpoint.hl, hpoint.ai]
  by_cases hodd : k % 2 = 1
  · have hother : ax ≠ axisAt k := by
      rintro rfl
      rw [axisAt_index (by omega)] at hne
      omega
    rw [highAt, decide_eq_true hodd, if_pos rfl, if_pos rfl, PerAxis.get_set, PerAxis.get_set, if_neg hother, if_neg hother]
    exact ⟨rfl, rfl⟩
  · rw [highAt, decide_eq_false hodd, if_neg Bool.false_ne_true, if_neg Bool.false_ne_true]
    exact ⟨rfl, rfl⟩

/-- Reads among which read 2i + 1 is not leave AXIS[i] alone (R192). -/
theorem axisReadsDone_axis_of_untouched {m n : Nat} (hmn : m ≤ n) (hn : n ≤ 6) {ax : Axis}
    (hne : ∀ r, m ≤ r → r < n → r ≠ 2 * ax.index + 1) :
    (s.axisReadsDone base n).axis.get ax = (s.axisReadsDone base m).axis.get ax
      ∧ (s.axisReadsDone base n).held.axis.get ax = (s.axisReadsDone base m).held.axis.get ax := by
  induction n, hmn using Nat.le_induction with
  | base => exact ⟨rfl, rfl⟩
  | succ n hmn ih =>
    obtain ⟨haxis, hheld⟩ := axisReadsDone_axis_succ h base (by omega) (hne n hmn (Nat.lt_succ_self n))
    obtain ⟨ihaxis, ihheld⟩ := ih (by omega) fun r hr hlt => hne r hr (by omega)
    exact ⟨haxis.trans ihaxis, hheld.trans ihheld⟩

/-- After read 2i + 1 AXIS[i] holds a value (R194). -/
theorem axisReadsDone_held {k : Nat} (hk : k ≤ 6) {ax : Axis} (hdone : 2 * ax.index + 2 ≤ k) :
    (s.axisReadsDone base k).held.axis.get ax = true := by
  have hpoint := axisReadsDone_point h base (k := 2 * ax.index + 1) (by omega)
  obtain ⟨v, -, hheld⟩ := axisReadDone_axis (s.axisReadsDone base (2 * ax.index + 1)) base
  have hwritten : (s.axisReadsDone base (2 * ax.index + 2)).held.axis.get ax = true := by
    have hself : axisAt (2 * ax.index + 1) = ax := by cases ax <;> rfl
    rw [axisReadsDone_succ, hheld, hpoint.hl, hpoint.ai, highAt, decide_eq_true (by omega), if_pos rfl, hself,
      PerAxis.get_set, if_pos rfl]
  rw [(axisReadsDone_axis_of_untouched h base hdone hk fun r hr _ => by omega).2, hwritten]

end

/-- Settles O28: the stopped run has done the first m / 32 reads of the whole one, and read 2i + 1 alone writes AXIS[i]. -/
theorem cutRdaxesKeepsTheFinishedAxes : Obligations.CutRdaxesKeepsTheFinishedAxes := by
  intro base m s hs hrange hm
  obtain ⟨t, hexec, ht, -, hcsn, hseq⟩ := exec_rdaxes_cut (s := s.withClock (some m) []) hs hrange rfl hm
  have hpoint := axesAccepted_point (s := s.withClock none []) hs base (n := 192) rfl
  have hcut : (s.withClock (some m) []).axesAccepted base
      = ((s.withClock none []).axesAccepted base).withClock (some m) [] := rfl
  rw [hcut, axisReadsDone_withClock] at ht
  have hk : m / 32 ≤ 5 := by omega
  have hframe := axisTransaction_frame ((((s.withClock none []).axesAccepted base).axisReadsDone base (m / 32)).withClock
    ((some m).map (· - 32 * (m / 32))) []) base
  rw [← ht] at hframe
  have hplace := axisReadsDone_point hpoint base hk
  have haxis : t.axis = (((s.withClock none []).axesAccepted base).axisReadsDone base (m / 32)).axis := hframe.axis
  have hheld : t.held.axis = (((s.withClock none []).axesAccepted base).axisReadsDone base (m / 32)).held.axis :=
    hframe.heldAxis
  refine ⟨t, _, hexec, exec_rdaxes_complete (s := s.withClock none []) hs hrange rfl, hcsn, hseq, ?_, ?_, fun ax => ?_⟩
  · rw [hframe.ai.trans hplace.ai, axisAt_index (by omega), Nat.div_div_eq_div_mul]
  · rw [hframe.hl.trans hplace.hl, highAt]
  · rw [haxis, hheld]
    by_cases hdone : 64 * (ax.index + 1) ≤ m
    · have hreads : 2 * ax.index + 2 ≤ m / 32 := by omega
      rw [if_pos hdone, decide_eq_true hdone, Bool.true_or, axisReadsDone_held hpoint base (by omega) hreads]
      exact ⟨(axisReadsDone_axis_of_untouched hpoint base (by omega) (Nat.le_refl 6) fun r hr _ => by omega).1.symm, rfl⟩
    · have hreads : m / 32 ≤ 2 * ax.index + 1 := by omega
      rw [if_neg hdone, decide_eq_false hdone, Bool.false_or]
      exact axisReadsDone_axis_of_untouched hpoint base (Nat.zero_le _) (by omega) fun r _ hr => by omega

end Sys2Proof.Machine
end

section
/-! PROOFS. Runs of several commands (42_register_client R196, R198; 30_encoding R105), and commands seen without what shapes
the pins only (41_shifter_wire R166; 00_scope R12). -/

namespace Sys2Proof.Machine

/-! ### Runs -/

theorem execAll_cons {i : Instr} {s t : State} (h : exec i s = .next t) (is : List Instr) :
    execAll (i :: is) s = execAll is t := by
  rw [execAll, h]

/-- A run that ends in a next state has made its first command (R120). -/
theorem execAll_cons_next {i : Instr} {is : List Instr} {s t : State} (h : execAll (i :: is) s = .next t) :
    ∃ u, exec i s = .next u ∧ execAll is u = .next t := by
  rw [execAll] at h
  cases hexec : exec i s with
  | next u => rw [hexec] at h; exact ⟨u, rfl, h⟩
  | fault f => rw [hexec] at h; cases h
  | refused r => rw [hexec] at h; cases h

theorem execAll_append {is : List Instr} {s t : State} (h : execAll is s = .next t) (js : List Instr) :
    execAll (is ++ js) s = execAll js t := by
  induction is generalizing s with
  | nil => cases h; rfl
  | cons i is ih =>
    obtain ⟨u, hexec, hrest⟩ := execAll_cons_next h
    rw [List.cons_append, execAll_cons hexec, ih hrest]

/-! ### Register-framed traces -/

/-- After a trace of whole frames the scan begins anew (R46). -/
theorem framesOk_append {ok : Nat → Bool} {first : List BusEvent} (second : List BusEvent) {place : Option Nat}
    (h : framesOk ok place first = true) : framesOk ok place (first ++ second) = framesOk ok none second := by
  induction first generalizing place with
  | nil =>
    cases place with
    | none => rfl
    | some n => cases h
  | cons ev rest ih =>
    cases place with
    | none =>
      cases ev with
      | select => exact ih h
      | send out received => cases h
      | deselect => cases h
    | some n =>
      cases ev with
      | select => cases h
      | send out received => exact ih h
      | deselect =>
        obtain ⟨hok, hrest⟩ := Bool.and_eq_true_iff.mp (show (ok n && framesOk ok none rest) = true from h)
        show (ok n && framesOk ok none (rest ++ second)) = _
        rw [hok, Bool.true_and, ih hrest]

/-- A frame of two bytes keeps a trace register framed (R46). -/
theorem registerFramed_frameEvents {t : List BusEvent} (h : registerFramed t = true) (hdr i0 out i1 : Byte) :
    registerFramed (t ++ frameEvents hdr i0 out i1) = true :=
  framesOk_append _ h

theorem axisReadDone_registerFramed {s : State} (h : registerFramed s.trace = true) (base : Nat) :
    registerFramed (s.axisReadDone base).trace = true := by
  obtain ⟨i0, i1, -, -, hframed⟩ := framed_eq s (header true (axisAddress base s.ai s.hl)) dummyByte
  rw [State.axisReadDone, (axisLatch_unmoved _).trace, hframed]
  exact registerFramed_frameEvents h _ _ _ _

theorem axisReadsDone_registerFramed {s : State} (h : registerFramed s.trace = true) (base k : Nat) :
    registerFramed (s.axisReadsDone base k).trace = true := by
  induction k with
  | zero => exact h
  | succ k ih => rw [axisReadsDone_succ]; exact axisReadDone_registerFramed ih base

/-- A framer command with a clock that does not stop completes and leaves all that the next one needs (R196). -/
theorem exec_framer {i : Instr} {s : State} (hs : s.ready = true) (hc : s.env.clock = none) (hi : isFramerCommand i = true)
    (hframed : registerFramed s.trace = true) :
    ∃ t, exec i s = .next t ∧ t.ready = true ∧ t.env.clock = none ∧ registerFramed t.trace = true := by
  have hcovers (n : Nat) : s.env.clockCovers n = true := Env.clockCovers_none hc n
  have hclock {e : Env} {n : Nat} (he : e.clock = none) : (e.clockUsed n).clock = none := congrArg (Option.map _) he
  have transaction {rw : Bool} {a : Nat} {d : Byte} (hbody : transactionOf i = some (rw, a, d)) (ha : a ≤ 127) :
      ∃ t, exec i s = .next t ∧ t.ready = true ∧ t.env.clock = none ∧ registerFramed t.trace = true := by
    obtain ⟨i0, i1, -, hexec⟩ := exec_transaction_fields hbody hs ha (hcovers 32)
    exact ⟨_, hexec, hs, hclock hc, registerFramed_frameEvents hframed _ _ _ _⟩
  cases i with
  | rdreg a => exact transaction rfl (addressInRange_iff.mp hi)
  | wrreg a d => exact transaction rfl (addressInRange_iff.mp hi)
  | rdaxes b =>
    refine ⟨_, exec_rdaxes_complete hs (baseInRange_iff.mp hi) (hcovers 192),
      axisReadsDone_six_ready (axesAccepted_point hs b (hcovers 192)) b, ?_,
      axisReadsDone_registerFramed (s := s.axesAccepted b) hframed b 6⟩
    rw [axisReadsDone_clock]
    exact congrArg (Option.map _) hc
  | init | select | deselect | xfer | rdframe | wrframe => cases hi

/-- Settles O30: every framer command of the list leaves what the next one needs. -/
theorem framerCommandsKeepTheTraceRegisterFramed : Obligations.FramerCommandsKeepTheTraceRegisterFramed := by
  intro is
  induction is with
  | nil => exact fun s hs _ _ hframed => ⟨s, rfl, hframed, hs⟩
  | cons i is ih =>
    intro s hs hc hall hframed
    obtain ⟨t, hexec, ht, htc, htframed⟩ := exec_framer hs hc (hall i List.mem_cons_self) hframed
    rw [execAll_cons hexec]
    exact ih t ht htc (fun j hj => hall j (List.mem_cons_of_mem i hj)) htframed

/-! ### A frame built by hand -/

/-- SELECT, XFER of the header, XFER of the byte and DESELECT end where the transaction ends, CMDR aside (R198). -/
theorem execAll_handBuilt {i : Instr} {rw : Bool} {a : Nat} {d : Byte} (hbody : transactionOf i = some (rw, a, d))
    {s : State} (hs : s.ready = true) (ha : a ≤ 127) (hc : s.env.clockCovers 32 = true) :
    ∃ t u, exec i s = .next t
      ∧ execAll [.select, .xfer (header rw a), .xfer (dataByte rw d), .deselect] s = .next u
      ∧ { u with cmdr := t.cmdr } = t := by
  obtain ⟨hidle, hon, -⟩ := (ready_iff s).mp hs
  have hselect : exec .select s = .next _ := execSelect_next.mpr ⟨hidle, hon, rfl⟩
  rw [execAll_cons hselect]
  generalize hu1 : (((s.accept (commandWord .select) .select).driveCsn false).emit .select).retire = u1
  have hheader := exec_xfer_complete (s := u1) (by rw [← hu1]; rfl) (by rw [← hu1]; exact hon)
    (by rw [← hu1]; exact clockCovers_le hc (by decide)) (header rw a)
  rw [execAll_cons hheader]
  generalize hu2 : ((u1.accept (commandWord (.xfer (header rw a))) .data).exchanged (header rw a)).goTo .idle = u2
  have hbyte := exec_xfer_complete (s := u2) (by rw [← hu2]; rfl) (by rw [← hu2, ← hu1]; exact hon)
    (by rw [← hu2, ← hu1]; exact clockCovers_exchanged (s := s) (out := header rw a) (n := 16) hc) (dataByte rw d)
  rw [execAll_cons hbyte]
  generalize hu3 : ((u2.accept (commandWord (.xfer (dataByte rw d))) .data).exchanged (dataByte rw d)).goTo .idle = u3
  have hdeselect : exec .deselect u3 = .next _ :=
    execDeselect_next.mpr ⟨by rw [← hu3]; rfl, by rw [← hu3, ← hu2, ← hu1]; exact hon, rfl⟩
  refine ⟨_, _, exec_transaction_complete hbody hs ha hc, execAll_cons hdeselect [], ?_⟩
  rw [← hu3, ← hu2, ← hu1]
  rfl

/-- Settles O31: the expansions of RDREG and WRREG are hand-built frames of their header and data byte. -/
theorem aHandBuiltFrameEqualsTheRegisterCommand : Obligations.AHandBuiltFrameEqualsTheRegisterCommand := by
  rintro i s hs hc (⟨a, rfl, ha⟩ | ⟨a, v, rfl, ha⟩)
  · exact execAll_handBuilt (i := .rdreg a) rfl hs ha hc
  · exact execAll_handBuilt (i := .wrreg a v) rfl hs ha hc

end Sys2Proof.Machine
end

section
/-! PROOFS. Commands seen through a part of the state: without the pins and CFG (41_shifter_wire R166; 00_scope R12), and without
what only RDAXES writes (30_encoding R105). -/

namespace Sys2Proof.Machine

/-! ### Views -/

/-- What `f` leaves, seen through `V`, depends only on what is seen of the state it starts from. -/
def ThroughView (V f : State → State) : Prop := ∀ s, V (f s) = V (f (V s))

theorem ThroughView.congr {V f : State → State} (hf : ThroughView V f) {s t : State} (h : V s = V t) :
    V (f s) = V (f t) := by
  rw [hf s, h, ← hf t]

/-! ### Without the pins, EDGE and the clock, and with or without CFG -/

/-- The transfer granularity's view of the state, CFG only if it is kept (R12, R166). -/
def State.wireView (keepCfg : Bool) (s : State) : State :=
  { s.transferView with cfg := if keepCfg then s.cfg else 0 }

section
variable (keepCfg : Bool)

theorem framed_throughWireView (hdr out : Byte) : ThroughView (State.wireView keepCfg) (·.framed hdr out) := by
  intro s
  show _ = { (s.framed hdr out).wireView keepCfg with cfg := if keepCfg then (if keepCfg then s.cfg else 0) else 0 }
  cases keepCfg <;> rfl

theorem axisLatch_throughWireView : ThroughView (State.wireView keepCfg) State.axisLatch := by
  intro s
  have hhl : (s.wireView keepCfg).hl = s.hl := rfl
  have hai : (s.wireView keepCfg).assemble.ai = s.assemble.ai := rfl
  unfold State.axisLatch State.nextAxis
  rw [hhl, hai]
  cases keepCfg <;> cases s.hl <;> cases s.assemble.ai <;> rfl

theorem axisReadDone_throughWireView (base : Nat) : ThroughView (State.wireView keepCfg) (·.axisReadDone base) :=
  fun s => (axisLatch_throughWireView keepCfg).congr (framed_throughWireView keepCfg _ dummyByte s)

theorem axisReadsDone_congr_wireView {s t : State} (h : s.wireView keepCfg = t.wireView keepCfg) (base k : Nat) :
    (s.axisReadsDone base k).wireView keepCfg = (t.axisReadsDone base k).wireView keepCfg := by
  induction k with
  | zero => exact h
  | succ k ih =>
    rw [axisReadsDone_succ, axisReadsDone_succ]
    exact (axisReadDone_throughWireView keepCfg base).congr ih

end

/-! ### The transfer granularity -/

/-- A complete transaction at transfer granularity (R132, R182). -/
def State.framedInSteps (s : State) (hdr out : Byte) : State :=
  ((((((((s.driveCsn false).emit .select).goTo .addr).exchange hdr).goTo .data).exchange out).goTo .deselect).driveCsn
    true).emit .deselect |>.goTo .idle

theorem sequencerSteps_succ {s t : State} {rw : Bool} {a : Nat} {d : Byte} {next : Seq}
    (h : s.sequencerStep rw a d next = some t) (n : Nat) :
    s.sequencerSteps rw a d next (n + 1) = t.sequencerSteps rw a d next n := by
  rw [State.sequencerSteps, h]

/-- With the clock running a transaction is four sequencer steps (R182). -/
theorem sequencerSteps_four {s : State} (rw : Bool) (a : Nat) (d : Byte) (hseq : s.seq = .select)
    (hc : s.env.clockRunning = true) :
    s.sequencerSteps rw a d .idle 4 = s.framedInSteps (header rw a) (dataByte rw d) := by
  have hselect : s.sequencerStep rw a d .idle = some (((s.driveCsn false).emit .select).goTo .addr) := by
    rw [State.sequencerStep, hseq]
  have haddr : (((s.driveCsn false).emit .select).goTo .addr).sequencerStep rw a d .idle
      = some (((((s.driveCsn false).emit .select).goTo .addr).exchange (header rw a)).goTo .data) := if_pos hc
  have hdata : (((((s.driveCsn false).emit .select).goTo .addr).exchange (header rw a)).goTo .data).sequencerStep rw a d
      .idle = some ((((((s.driveCsn false).emit .select).goTo .addr).exchange (header rw a)).goTo .data).exchange
        (dataByte rw d) |>.goTo .deselect) := if_pos hc
  rw [sequencerSteps_succ hselect, sequencerSteps_succ haddr, sequencerSteps_succ hdata]
  rfl

/-- The two granularities agree on a complete transaction (R12, R166). -/
theorem framedInSteps_view {s : State} (hs : s.shifting = false) (hdr out : Byte) :
    (s.framedInSteps hdr out).wireView true = (s.framed hdr out).wireView true := by
  have hshifting : (s.framedInSteps hdr out).shifting = false := hs
  have heq : (s.framedInSteps hdr out).wireView true
      = { (s.framed hdr out).wireView true with shifting := (s.framedInSteps hdr out).shifting } := rfl
  rw [heq, hshifting]
  rfl

theorem clockRunning_of_none {e : Env} (h : e.clock = none) : e.clockRunning = true := by
  rw [Env.clockRunning, h]; rfl

/-- Settles O33: four sequencer steps and the transaction edge by edge look the same. -/
theorem registerCommandsAgreeWithTheTransferGranularity :
    Obligations.RegisterCommandsAgreeWithTheTransferGranularity := by
  intro rw a v s hs hc ha
  obtain ⟨d, hbody, hd⟩ : ∃ d, transactionOf (if rw then .rdreg a else .wrreg a v) = some (rw, a, d)
      ∧ dataByte rw d = dataByte rw v := by
    cases rw <;> exact ⟨_, rfl, rfl⟩
  refine ⟨_, exec_transaction_complete hbody hs ha (Env.clockCovers_none hc 32), ?_⟩
  rw [sequencerSteps_four (s := s.accept _ .select) rw a v rfl (clockRunning_of_none hc), hd]
  exact (framedInSteps_view rfl _ _).symm

/-- RDAXES at transfer granularity and edge by edge, from read j of the six on (R12, R192). -/
theorem axisSequence_view {s : State} {j n : Nat} (hc : s.env.clock = none) (h : AxisPoint s (axisAt j) (highAt j) 192)
    (hn : j + n ≤ 6) (base : Nat) : (s.axisSequence base n).wireView true = (s.axisReadsDone base n).wireView true := by
  induction n generalizing s j with
  | zero => rfl
  | succ n ih =>
    have hread : ((s.sequencerSteps true (axisAddress base s.ai s.hl) dummyByte .idle 4).axisLatch).wireView true
        = (s.axisReadDone base).wireView true := by
      rw [sequencerSteps_four _ _ _ h.seq (clockRunning_of_none hc)]
      exact (axisLatch_throughWireView true).congr (framedInSteps_view h.shifting _ _)
    have hclock : ((s.sequencerSteps true (axisAddress base s.ai s.hl) dummyByte .idle 4).axisLatch).env.clock = none := by
      rw [sequencerSteps_four _ _ _ h.seq (clockRunning_of_none hc), axisLatch_env]
      exact hc
    rw [State.axisSequence, State.axisReadsDone]
    generalize (s.sequencerSteps true (axisAddress base s.ai s.hl) dummyByte .idle 4).axisLatch = u at hread hclock
    cases n with
    | zero => exact hread
    | succ n =>
      have hnext := AxisPoint.next (n := 160) h (by omega) base
      have hu : AxisPoint u (axisAt (j + 1)) (highAt (j + 1)) 192 :=
        ⟨(congrArg State.seq hread).trans hnext.seq, (congrArg State.shifting hread).trans hnext.shifting,
          (congrArg State.enabled hread).trans hnext.enabled, Env.clockCovers_none hclock 192,
          (congrArg State.ai hread).trans hnext.ai, (congrArg State.hl hread).trans hnext.hl⟩
      rw [ih hclock hu (by omega)]
      exact axisReadsDone_congr_wireView true hread base (n + 1)

/-- Settles O34: the six transactions look the same read by read. -/
theorem rdaxesAgreesWithTheTransferGranularity : Obligations.RdaxesAgreesWithTheTransferGranularity := by
  intro base s hs hc hrange
  have hcovers := Env.clockCovers_none hc 192
  exact ⟨_, exec_rdaxes_complete hs hrange hcovers,
    (axisSequence_view (s := s.axesAccepted base) (j := 0) (n := 6) hc (axesAccepted_point hs base hcovers) (by decide) base).symm⟩

/-! ### The configuration -/

theorem configured_enabled (cfg : BitVec 9) : (configured cfg).getLsbD 15 = true := by
  rw [← configured_eq]
  simp [enableBit]

/-- With a clock that does not stop an accepted command of an enabled machine completes, whatever the configuration, and no
result depends on it (R30, R166). -/
theorem exec_congr_configuration {i : Instr} {s t1 : State} (c1 c2 : BitVec 9) (hc : s.env.clock = none)
    (h : exec i { s with cfg := configured c1 } = .next t1) :
    ∃ t2, exec i { s with cfg := configured c2 } = .next t2 ∧ t1.wireView false = t2.wireView false := by
  have hon (c : BitVec 9) : { s with cfg := configured c }.enabled = true := configured_enabled c
  have hcovers (c : BitVec 9) (n : Nat) : { s with cfg := configured c }.env.clockCovers n = true :=
    Env.clockCovers_none hc n
  have hready (hs : { s with cfg := configured c1 }.ready = true) : { s with cfg := configured c2 }.ready = true := by
    obtain ⟨hidle, -, hcsn⟩ := (ready_iff _).mp hs
    exact (ready_iff _).mpr ⟨hidle, hon c2, hcsn⟩
  cases bodyKind i with
  | init cfg =>
    obtain ⟨-, hoff, -⟩ := execInit_next.mp h
    exact absurd (hon c1) (Bool.eq_false_iff.mp hoff)
  | select =>
    obtain ⟨hidle, -, rfl⟩ := execSelect_next.mp h
    exact ⟨_, execSelect_next.mpr ⟨hidle, hon c2, rfl⟩, rfl⟩
  | deselect =>
    obtain ⟨hidle, -, rfl⟩ := execDeselect_next.mp h
    exact ⟨_, execDeselect_next.mpr ⟨hidle, hon c2, rfl⟩, rfl⟩
  | xfer d =>
    obtain ⟨hidle, -, -⟩ := exec_xfer_next.mp h
    cases h.symm.trans (exec_xfer_complete hidle (hon c1) (hcovers c1 16) d)
    exact ⟨_, exec_xfer_complete (s := { s with cfg := configured c2 }) hidle (hon c2) (hcovers c2 16) d, rfl⟩
  | transaction hbody =>
    obtain ⟨hs, ha, -⟩ := (exec_transaction_next hbody).mp h
    rw [addressInRange_iff] at ha
    cases h.symm.trans (exec_transaction_complete hbody hs ha (hcovers c1 32))
    exact ⟨_, exec_transaction_complete hbody (hready hs) ha (hcovers c2 32), rfl⟩
  | rdaxes b =>
    obtain ⟨hs, hb, -⟩ := exec_rdaxes_next.mp h
    rw [baseInRange_iff] at hb
    cases h.symm.trans (exec_rdaxes_complete hs hb (hcovers c1 192))
    exact ⟨_, exec_rdaxes_complete (hready hs) hb (hcovers c2 192), axisReadsDone_congr_wireView false rfl b 6⟩

/-- Settles O41: the bodies seen without pins and CFG, and INIT's micro-steps seen without CMDR as well. -/
theorem wireConfigurationOnlyShapesThePins : Obligations.WireConfigurationOnlyShapesThePins := by
  refine ⟨fun i s c1 c2 t1 hc h => exec_congr_configuration c1 c2 hc h, fun s c1 c2 t1 hlegal h => ?_⟩
  obtain ⟨hidle, hoff, -, rfl⟩ := execInit_next.mp h
  refine ⟨_, execInit_next.mpr ⟨hidle, hoff, hlegal, rfl⟩, ?_⟩
  rw [initialise_eq, initialise_eq]
  rfl

/-! ### Without what only RDAXES writes -/

/-- The state without CMDR, the sequencer's registers and the samples (R105). -/
def State.readView (s : State) : State :=
  { s with
    cmdr := 0, lob := 0, ai := .x, hl := false, axis := ⟨0, 0, 0⟩, seq := .idle, shifting := false
    held := { s.held with lob := false, axis := ⟨false, false, false⟩, cmdr := true } }

theorem framed_throughReadView (hdr out : Byte) : ThroughView State.readView (·.framed hdr out) := fun _ => rfl

theorem accept_readView (s : State) (w : CommandWord) (first : Seq) : (s.accept w first).readView = s.readView := rfl

theorem axisLatch_readView (s : State) : s.axisLatch.readView = s.readView := by
  unfold State.axisLatch State.nextAxis
  repeat' split
  all_goals rfl

/-- States that look the same differ in what is not seen (R105). -/
theorem eq_of_readView {t u : State} (h : u.readView = t.readView) : u = { t with
    cmdr := u.cmdr, lob := u.lob, ai := u.ai, hl := u.hl, axis := u.axis, seq := u.seq, shifting := u.shifting
    held := { t.held with lob := u.held.lob, axis := u.held.axis, cmdr := u.held.cmdr } } := by
  have hfields : { u.readView with
      cmdr := u.cmdr, lob := u.lob, ai := u.ai, hl := u.hl, axis := u.axis, seq := u.seq, shifting := u.shifting
      held := { u.readView.held with lob := u.held.lob, axis := u.held.axis, cmdr := u.held.cmdr } } = u := rfl
  conv_lhs => rw [← hfields, h]
  rfl

/-- What only RDAXES writes is the same in `s` and `t` (R24, R192). -/
structure SamplesKept (s t : State) : Prop where
  axis : t.axis = s.axis
  lob : t.lob = s.lob
  ai : t.ai = s.ai
  hl : t.hl = s.hl
  heldAxis : t.held.axis = s.held.axis
  heldLob : t.held.lob = s.held.lob

theorem axisAddress_axisAt (base : Nat) {k : Nat} (hk : k < 6) : axisAddress base (axisAt k) (highAt k) = base + k := by
  interval_cases k <;> rfl

/-- Register reads in a row look like as many reads of RDAXES (R105). -/
theorem execAll_rdregs {base : Nat} {s : State} (hs : s.ready = true) (hc : s.env.clockCovers 192 = true)
    (hrange : base + 5 ≤ 127) {k : Nat} (hk : k ≤ 6) :
    ∃ u, execAll ((List.range k).map fun j => .rdreg (base + j)) s = .next u ∧ u.ready = true ∧ SamplesKept s u
      ∧ (0 < k → u.shifting = false ∧ u.held.cmdr = true)
      ∧ u.readView = ((s.axesAccepted base).axisReadsDone base k).readView := by
  induction k with
  | zero => exact ⟨s, rfl, hs, ⟨rfl, rfl, rfl, rfl, rfl, rfl⟩, fun h => absurd h (Nat.lt_irrefl 0), rfl⟩
  | succ k ih =>
    obtain ⟨u, hrun, hu, hkept, -, hview⟩ := ih (by omega)
    have hpoint := axisReadsDone_point (axesAccepted_point hs base hc) base (k := k) (by omega)
    have hcovers : u.env.clockCovers 32 = true := by
      rw [show u.env = u.readView.env from rfl, hview]
      exact clockCovers_le hpoint.clock (by omega)
    have hexec := exec_transaction_complete (i := .rdreg (base + k)) rfl hu (by omega) hcovers
    refine ⟨(u.accept (commandWord (.rdreg (base + k))) .select).framed (header true (base + k)) dummyByte, ?_,
      (ready_iff _).mpr ⟨rfl, enabled_of_ready (s := u) hu, rfl⟩,
      ⟨hkept.axis, hkept.lob, hkept.ai, hkept.hl, hkept.heldAxis, hkept.heldLob⟩, fun _ => ⟨rfl, rfl⟩, ?_⟩
    · rw [List.range_succ, List.map_append, execAll_append hrun]
      exact execAll_cons hexec []
    · rw [axisReadsDone_succ, State.axisReadDone, axisLatch_readView, hpoint.ai, hpoint.hl,
        axisAddress_axisAt base (by omega)]
      exact (framed_throughReadView _ dummyByte).congr ((accept_readView u _ .select).trans hview)

/-- Settles O32: the register reads look like RDAXES, and leave alone what is not seen but for CMDR. -/
theorem sixRegisterReadsEqualRdaxesButForTheSamples : Obligations.SixRegisterReadsEqualRdaxesButForTheSamples := by
  intro base s hs hc hrange
  have hpoint := axesAccepted_point hs base hc
  have hexec := exec_rdaxes_complete hs hrange hc
  obtain ⟨u, hrun, hu, hkept, hlast, hview⟩ := execAll_rdregs hs hc hrange (Nat.le_refl 6)
  obtain ⟨hshifting, hcmdr⟩ := hlast (by decide)
  refine ⟨_, u, hexec, hrun, ?_⟩
  have hsame := eq_of_readView hview
  rw [hkept.axis, hkept.lob, hkept.ai, hkept.hl, hkept.heldAxis, hkept.heldLob, hcmdr, ← (exec_cmdr hexec).1, hshifting,
    ← axisReadsDone_six_shifting hpoint base, ((ready_iff u).mp hu).1,
    ← ((ready_iff _).mp (axisReadsDone_six_ready hpoint base)).1] at hsame
  exact hsame

end Sys2Proof.Machine
end

section
/-! PROOFS. The slave's answers reach only the received bytes (20_memory R66): every operation keeps two states alike that differ
in received bytes and in the slave's own choices. -/

namespace Sys2Proof.Machine

/-- `t` is `s` but for the received bytes, in the data registers and in TRACE, and the slave's choices (R66). -/
def Alike (s t : State) : Prop := ∃ rxd rxsr lob axis trace answers draws,
  t = { s with
    rxd := rxd, rxsr := rxsr, lob := lob, axis := axis, trace := trace
    env := { s.env with answers := answers, draws := draws } }
    ∧ sourceTrace s.trace = sourceTrace trace

theorem sourceTrace_append (first second : List BusEvent) :
    sourceTrace (first ++ second) = sourceTrace first ++ sourceTrace second := List.map_append

/-- Two ways that one condition decides between keep states alike if each of them does. -/
theorem Alike.ite {s t s' t' : State} {c : Prop} [Decidable c] (h : c → Alike s t) (h' : ¬c → Alike s' t') :
    Alike (if c then s else s') (if c then t else t') := by
  split
  · exact h ‹_›
  · exact h' ‹_›

section
variable {s t : State} (h : Alike s t)
include h

/-! ### Pins, events and the sequencer's registers -/

theorem Alike.goTo (next : Seq) : Alike (s.goTo next) (t.goTo next) := by
  obtain ⟨rxd, rxsr, lob, axis, trace, answers, draws, rfl, htrace⟩ := h
  exact ⟨rxd, rxsr, lob, axis, trace, answers, draws, rfl, htrace⟩

theorem Alike.driveCsn (level : Bool) : Alike (s.driveCsn level) (t.driveCsn level) := by
  obtain ⟨rxd, rxsr, lob, axis, trace, answers, draws, rfl, htrace⟩ := h
  exact ⟨rxd, rxsr, lob, axis, trace, answers, draws, rfl, htrace⟩

theorem Alike.driveSck (level : Bool) : Alike (s.driveSck level) (t.driveSck level) := by
  obtain ⟨rxd, rxsr, lob, axis, trace, answers, draws, rfl, htrace⟩ := h
  exact ⟨rxd, rxsr, lob, axis, trace, answers, draws, rfl, htrace⟩

theorem Alike.accept (w : CommandWord) (first : Seq) : Alike (s.accept w first) (t.accept w first) := by
  obtain ⟨rxd, rxsr, lob, axis, trace, answers, draws, rfl, htrace⟩ := h
  exact ⟨rxd, rxsr, lob, axis, trace, answers, draws, rfl, htrace⟩

theorem Alike.startAxes : Alike s.startAxes t.startAxes := by
  obtain ⟨rxd, rxsr, lob, axis, trace, answers, draws, rfl, htrace⟩ := h
  exact ⟨rxd, rxsr, lob, axis, trace, answers, draws, rfl, htrace⟩

theorem Alike.emit {ev ev' : BusEvent} (hev : sourceEvent ev = sourceEvent ev') : Alike (s.emit ev) (t.emit ev') := by
  obtain ⟨rxd, rxsr, lob, axis, trace, answers, draws, rfl, htrace⟩ := h
  refine ⟨rxd, rxsr, lob, axis, trace ++ [ev'], answers, draws, rfl, ?_⟩
  rw [State.emit_trace, sourceTrace_append, sourceTrace_append, htrace, sourceTrace, sourceTrace, List.map_singleton, hev]
  rfl

/-! ### The byte transfer -/

theorem Alike.shiftOut (k : Nat) : Alike (s.shiftOut k) (t.shiftOut k) := by
  obtain ⟨rxd, rxsr, lob, axis, trace, answers, draws, rfl, htrace⟩ := h
  exact ⟨rxd, rxsr, lob, axis, trace, answers, draws, rfl, htrace⟩

theorem Alike.sampleSdi (k : Nat) : Alike (s.sampleSdi k) (t.sampleSdi k) := by
  obtain ⟨rxd, rxsr, lob, axis, trace, answers, draws, rfl, htrace⟩ := h
  exact ⟨rxd, _, lob, axis, trace, answers, draws, rfl, htrace⟩

theorem Alike.loadShifter (out : Byte) : Alike (s.loadShifter out) (t.loadShifter out) := by
  obtain ⟨rxd, rxsr, lob, axis, trace, answers, draws, rfl, htrace⟩ := h
  exact ⟨rxd, rxsr, lob, axis, trace, answers, draws, rfl, htrace⟩

theorem Alike.countEdge : Alike s.countEdge t.countEdge := by
  obtain ⟨rxd, rxsr, lob, axis, trace, answers, draws, rfl, htrace⟩ := h
  exact ⟨rxd, rxsr, lob, axis, trace, answers, draws, rfl, htrace⟩

theorem Alike.loadRxd_setTc : Alike s.loadRxd.setTc t.loadRxd.setTc := by
  obtain ⟨rxd, rxsr, lob, axis, trace, answers, draws, rfl, htrace⟩ := h
  exact ⟨rxsr, rxsr, lob, axis, trace, answers.tail, draws + 1, rfl, htrace⟩

theorem Alike.cfg : t.cfg = s.cfg := by
  obtain ⟨rxd, rxsr, lob, axis, trace, answers, draws, rfl, -⟩ := h; rfl

theorem Alike.cpha : t.cpha = s.cpha := by rw [State.cpha, h.cfg, State.cpha]

theorem Alike.cpol : t.cpol = s.cpol := by rw [State.cpol, h.cfg, State.cpol]

theorem Alike.edge : t.edge = s.edge := by
  obtain ⟨rxd, rxsr, lob, axis, trace, answers, draws, rfl, -⟩ := h; rfl

theorem Alike.shifting : t.shifting = s.shifting := by
  obtain ⟨rxd, rxsr, lob, axis, trace, answers, draws, rfl, -⟩ := h; rfl

theorem Alike.seq : t.seq = s.seq := by
  obtain ⟨rxd, rxsr, lob, axis, trace, answers, draws, rfl, -⟩ := h; rfl

theorem Alike.ai : t.ai = s.ai := by
  obtain ⟨rxd, rxsr, lob, axis, trace, answers, draws, rfl, -⟩ := h; rfl

theorem Alike.hl : t.hl = s.hl := by
  obtain ⟨rxd, rxsr, lob, axis, trace, answers, draws, rfl, -⟩ := h; rfl

theorem Alike.csn : t.csn = s.csn := by
  obtain ⟨rxd, rxsr, lob, axis, trace, answers, draws, rfl, -⟩ := h; rfl

theorem Alike.txsr : t.txsr = s.txsr := by
  obtain ⟨rxd, rxsr, lob, axis, trace, answers, draws, rfl, -⟩ := h; rfl

theorem Alike.edgeEnabled : t.edgeEnabled = s.edgeEnabled := by
  obtain ⟨rxd, rxsr, lob, axis, trace, answers, draws, rfl, -⟩ := h; rfl

theorem Alike.startTransfer (out : Byte) : Alike (s.startTransfer out) (t.startTransfer out) := by
  rw [State.startTransfer, State.startTransfer, h.cpha]
  exact .ite (fun _ => h.loadShifter out) fun _ => (h.loadShifter out).shiftOut 0

theorem Alike.leadingEdge (k : Nat) : Alike (s.leadingEdge k) (t.leadingEdge k) := by
  rw [State.leadingEdge, State.leadingEdge, h.cpha, h.cpol]
  exact .ite (fun _ => (h.driveSck _).shiftOut k) fun _ => (h.driveSck _).sampleSdi k

theorem Alike.trailingEdge (k : Nat) : Alike (s.trailingEdge k) (t.trailingEdge k) := by
  rw [State.trailingEdge, State.trailingEdge, h.cpha, h.cpol]
  exact .ite (fun _ => (h.driveSck _).sampleSdi k)
    fun _ => .ite (fun _ => (h.driveSck _).shiftOut (k + 1)) fun _ => h.driveSck _

theorem Alike.edgeStep : Alike s.edgeStep t.edgeStep := by
  rw [State.edgeStep, State.edgeStep, State.edgePins, State.edgePins, h.edgeEnabled, h.edge]
  refine .ite (fun _ => Alike.countEdge ?_) fun _ => h
  exact .ite (fun _ => h.leadingEdge _) fun _ => h.trailingEdge _

theorem Alike.complete : Alike s.complete t.complete := by
  rw [State.complete, State.complete, h.shifting, h.edge, h.txsr]
  exact .ite (fun _ => h.loadRxd_setTc.emit rfl) fun _ => h

theorem Alike.started (out : Byte) : Alike (s.started out) (t.started out) := by
  rw [State.started, State.started, h.shifting]
  exact .ite (fun _ => h) fun _ => h.startTransfer out

end

theorem Alike.edges {s t : State} (h : Alike s t) (n : Nat) : Alike (s.edges n) (t.edges n) := by
  induction n generalizing s t with
  | zero => exact h
  | succ n ih => exact ih h.edgeStep

/-! ### The sequencer -/

section
variable {s t : State} (h : Alike s t)
include h

theorem Alike.transfer (out : Byte) : Alike (s.transfer out) (t.transfer out) := ((h.started out).edges 16).complete

theorem Alike.advance (next : Seq) : Alike (s.advance next) (t.advance next) := by
  rw [State.advance, State.advance, h.shifting]
  exact .ite (fun _ => h) fun _ => h.goTo next

theorem Alike.selectPhase : Alike s.selectPhase t.selectPhase := by
  rw [State.selectPhase, State.selectPhase, h.seq]
  exact .ite (fun _ => ((h.driveCsn false).emit rfl).goTo .addr) fun _ => h

theorem Alike.addrPhase (hdr : Byte) : Alike (s.addrPhase hdr) (t.addrPhase hdr) := by
  rw [State.addrPhase, State.addrPhase, h.seq]
  exact .ite (fun _ => (h.transfer hdr).advance .data) fun _ => h

theorem Alike.dataPhase (out : Byte) : Alike (s.dataPhase out) (t.dataPhase out) := by
  rw [State.dataPhase, State.dataPhase, h.seq]
  exact .ite (fun _ => (h.transfer out).advance .deselect) fun _ => h

theorem Alike.deselectPhase : Alike s.deselectPhase t.deselectPhase := by
  rw [State.deselectPhase, State.deselectPhase, h.seq]
  exact .ite (fun _ => ((h.driveCsn true).emit rfl).goTo .idle) fun _ => h

theorem Alike.transaction (rw : Bool) (a : Nat) (d : Byte) : Alike (s.transaction rw a d) (t.transaction rw a d) :=
  ((h.selectPhase.addrPhase _).dataPhase _).deselectPhase

theorem Alike.keepLow : Alike s.keepLow t.keepLow := by
  obtain ⟨rxd, rxsr, lob, axis, trace, answers, draws, rfl, htrace⟩ := h
  exact ⟨rxd, rxsr, rxd, axis, trace, answers, draws, rfl, htrace⟩

theorem Alike.assemble : Alike s.assemble t.assemble := by
  obtain ⟨rxd, rxsr, lob, axis, trace, answers, draws, rfl, htrace⟩ := h
  exact ⟨rxd, rxsr, lob, _, trace, answers, draws, rfl, htrace⟩

theorem Alike.nextAxis : Alike s.nextAxis t.nextAxis := by
  rw [State.nextAxis, State.nextAxis, h.ai]
  cases hai : s.ai with
  | z => exact h
  | x | y =>
    obtain ⟨rxd, rxsr, lob, axis, trace, answers, draws, rfl, htrace⟩ := h
    exact ⟨rxd, rxsr, lob, axis, trace, answers, draws, rfl, htrace⟩

theorem Alike.axisLatch : Alike s.axisLatch t.axisLatch := by
  rw [State.axisLatch, State.axisLatch, h.hl]
  exact .ite (fun _ => h.assemble.nextAxis) fun _ => h.keepLow

theorem Alike.axisRead (base : Nat) : Alike (s.axisRead base) (t.axisRead base) := by
  have htransaction : Alike (s.axisTransaction base) (t.axisTransaction base) := by
    rw [State.axisTransaction, State.axisTransaction, h.ai, h.hl]
    exact h.transaction true _ dummyByte
  rw [State.axisRead, State.axisRead, htransaction.seq]
  exact .ite (fun _ => htransaction.axisLatch) fun _ => htransaction

end

theorem Alike.axisReads {s t : State} (h : Alike s t) (base n : Nat) : Alike (s.axisReads base n) (t.axisReads base n) := by
  induction n generalizing s t with
  | zero => exact h
  | succ n ih =>
    rw [State.axisReads, State.axisReads, h.seq]
    exact .ite (fun _ => h) fun _ => ih (h.axisRead base)

/-! ### Instructions -/

/-- Both outcomes are refusals for one reason, or next states that are alike. -/
inductive OutcomesAlike : Result → Result → Prop
  | refused (r : Refusal) : OutcomesAlike (.refused r) (.refused r)
  | next {s t : State} (h : Alike s t) : OutcomesAlike (.next s) (.next t)

theorem OutcomesAlike.sameKind {p q : Result} (h : OutcomesAlike p q) : sameKind p q = true := by
  cases h with
  | refused r => exact decide_eq_true rfl
  | next h => rfl

theorem OutcomesAlike.of_next {s t : State} (h : OutcomesAlike (.next s) (.next t)) : Alike s t := by
  cases h with
  | next h => exact h

theorem OutcomesAlike.ite {p q p' q' : Result} {c : Prop} [Decidable c] (h : OutcomesAlike p q)
    (h' : OutcomesAlike p' q') : OutcomesAlike (if c then p else p') (if c then q else q') := by
  split
  · exact h
  · exact h'

section
variable {s t : State} (h : Alike s t) {k : State → State} (hk : Alike (k s) (k t))
include h hk

theorem whenEnabled_alike : OutcomesAlike (whenEnabled s k) (whenEnabled t k) := by
  rw [whenEnabled, whenEnabled, State.busy, State.busy, State.enabled, State.enabled, h.seq, h.cfg]
  exact .ite (.refused _) (.ite (.next hk) (.refused _))

theorem whenFrameFree_alike (inRange : Bool) :
    OutcomesAlike (whenFrameFree s inRange k) (whenFrameFree t inRange k) := by
  rw [whenFrameFree, whenFrameFree, State.busy, State.busy, State.enabled, State.enabled, h.seq, h.cfg, h.csn]
  exact .ite (.refused _) (.ite (.refused _) (.ite (.refused _) (.ite (.next hk) (.refused _))))

end

/-- From alike states every instruction but INIT has alike outcomes (R66). -/
theorem exec_alike {i : Instr} (hi : ∀ cfg, i ≠ .init cfg) {s t : State} (h : Alike s t) :
    OutcomesAlike (exec i s) (exec i t) := by
  cases bodyKind i with
  | init cfg => exact absurd rfl (hi cfg)
  | select =>
    rw [exec_select, exec_select]
    exact whenEnabled_alike h ((((h.accept _ _).driveCsn false).emit rfl).goTo .idle)
  | deselect =>
    rw [exec_deselect, exec_deselect]
    exact whenEnabled_alike h ((((h.accept _ _).driveCsn true).emit rfl).goTo .idle)
  | xfer d =>
    rw [exec_xfer, exec_xfer]
    exact whenEnabled_alike h (((h.accept _ _).transfer d).advance .idle)
  | transaction hbody =>
    rw [exec_transaction hbody, exec_transaction hbody]
    exact whenFrameFree_alike h ((h.accept _ _).transaction _ _ _) _
  | rdaxes b =>
    rw [exec_rdaxes, exec_rdaxes]
    refine whenFrameFree_alike h ?_ _
    exact (h.accept _ _).startAxes.axisReads b 6

theorem execInit_sameKind {s t : State} (h : Alike s t) (cfg : BitVec 9) :
    sameKind (execInit cfg s) (execInit cfg t) = true := by
  rw [execInit, execInit, State.busy, State.busy, State.enabled, State.enabled, h.seq, h.cfg]
  repeat' split
  all_goals rfl

/-- Settles O49: INIT by its micro-steps, every other instruction by alike outcomes. -/
theorem theSlaveOnlyChoosesBytes : Obligations.TheSlaveOnlyChoosesBytes := by
  intro i s s' answers draws hs'
  have halike : Alike s s' := ⟨s.rxd, s.rxsr, s.lob, s.axis, s.trace, answers, draws, hs', rfl⟩
  by_cases hi : ∃ cfg, i = .init cfg
  · obtain ⟨cfg, rfl⟩ := hi
    refine ⟨execInit_sameKind halike cfg, fun t t' h h' => ?_⟩
    obtain ⟨-, -, -, rfl⟩ := execInit_next.mp h
    obtain ⟨-, -, -, rfl⟩ := execInit_next.mp h'
    rw [initialise_eq, initialise_eq, hs']
    exact ⟨rfl, fun hnot => absurd rfl (hnot cfg), rfl⟩
  · have houtcomes := exec_alike (not_exists.mp hi) halike
    refine ⟨houtcomes.sameKind, fun t t' h h' => ?_⟩
    rw [h, h'] at houtcomes
    obtain ⟨rxd, rxsr, lob, axis, trace, answers', draws', rfl, htrace⟩ := houtcomes.of_next
    exact ⟨htrace, fun _ => rfl, rfl⟩

end Sys2Proof.Machine
end

section
/-! PROOFS. RDREG and WRREG under the ideal register-file slave (20_memory R67), its registers held still or changing. -/

namespace Sys2Proof.Machine

/-! ### Header bytes as the slave reads them -/

theorem headerRead_header (rw : Bool) (a : Nat) : headerRead (header rw a) = rw := header_getLsbD_seven rw a

theorem headerAddr_header (rw : Bool) (a : Fin 128) : headerAddr (header rw a) = a := by
  apply Fin.ext
  rw [headerAddr, header_extractLsb'_address]
  exact Nat.mod_eq_of_lt a.isLt

/-! ### One frame -/

variable (sl : IdealSlave)

/-- A slave that has received a read header answers with the register it names (R67). -/
theorem IdealSlave.answer_read {a : Fin 128} (h : sl.place = .headed (header true a)) {out received : Byte}
    (hallowed : sl.allows (.send out received) = true) : received = sl.sreg.get a := by
  have hanswer : sl.answer = if headerRead (header true a) then some (sl.sreg.get (headerAddr (header true a))) else none := by
    rw [IdealSlave.answer, h]
  rw [headerRead_header, if_pos rfl, headerAddr_header] at hanswer
  rw [IdealSlave.allows, hanswer] at hallowed
  exact of_decide_eq_true hallowed

/-- A slave that has received a write header stores the next byte (R67). -/
theorem IdealSlave.observe_write {a : Fin 128} (h : sl.place = .headed (header false a)) (v received : Byte) :
    (sl.observe (.send v received)).sreg.get a = v := by
  have hserve : sl.observe (.send v received) = sl.serve (header false a) v := by rw [IdealSlave.observe, h]
  rw [hserve, IdealSlave.serve, headerRead_header, if_neg Bool.false_ne_true]
  show (sl.sreg.set (headerAddr (header false a)) v (headerAddr (header false a)).isLt)[a.val] = v
  simp only [headerAddr_header, Vector.getElem_set_self]

/-- Among moves whose events are one frame the data byte stands where the slave has received the header (R67). -/
theorem IdealSlave.dataByte_of_frame {moves : List SlaveMove} {hdr i0 out i1 : Byte}
    (h : busEvents moves = frameEvents hdr i0 out i1) : ∃ before after, moves = before ++ .bus (.send out i1) :: after
      ∧ (busEvents before).length = 2 ∧ (sl.afterMoves before).place = .headed hdr := by
  obtain ⟨pre, rest, rfl, hpre, hrest⟩ := busEvents_eq_cons h
  obtain ⟨mid, rest, rfl, hmid, hrest⟩ := busEvents_eq_cons hrest
  obtain ⟨last, rest, rfl, hlast, -⟩ := busEvents_eq_cons hrest
  refine ⟨pre ++ .bus .select :: (mid ++ .bus (.send hdr i0) :: last), rest, by simp, ?_, ?_⟩
  · simp [busEvents_append, busEvents, hpre, hmid, hlast]
  · rw [IdealSlave.afterMoves_append, IdealSlave.afterMoves_cons, IdealSlave.afterMoves_append, IdealSlave.afterMoves_cons,
      IdealSlave.afterMoves_place_of_quiet _ hlast]
    generalize hu : ((sl.afterMoves pre).move (.bus .select)).afterMoves mid = u
    have hplace : u.place = .opened := by
      rw [← hu, IdealSlave.afterMoves_place_of_quiet _ hmid]
      rfl
    rw [IdealSlave.move, IdealSlave.observe, hplace]

theorem explainsMoves_at {before after : List SlaveMove} {ev : BusEvent}
    (h : sl.explainsMoves (before ++ .bus ev :: after) = true) : (sl.afterMoves before).allows ev = true := by
  rw [IdealSlave.explainsMoves_append, IdealSlave.explainsMoves, Bool.and_eq_true, Bool.and_eq_true] at h
  exact h.2.1

/-! ### The commands -/

/-- With a clock that does not stop a transaction's events are one frame, whose second answer is in RXD (R182). -/
theorem exec_transaction_frame {i : Instr} {rw : Bool} {a : Nat} {d : Byte} (hbody : transactionOf i = some (rw, a, d))
    {s t : State} (hc : s.env.clock = none) (h : exec i s = .next t) :
    t.ready = true ∧ t.env.clock = none ∧ ∃ i0, t.trace = s.trace ++ frameEvents (header rw a) i0 (dataByte rw d) t.rxd := by
  obtain ⟨hs, ha, -⟩ := (exec_transaction_next hbody).mp h
  obtain ⟨i0, i1, -, hexec⟩ := exec_transaction_fields hbody hs (addressInRange_iff.mp ha) (Env.clockCovers_none hc 32)
  cases h.symm.trans hexec
  exact ⟨hs, congrArg (Option.map _) hc, i0, rfl⟩

/-- Settles O51: of moves whose events are the command's frame the data byte finds the slave just after the header. -/
theorem idealSlaveReadsTheRegisterAsItStands : Obligations.IdealSlaveReadsTheRegisterAsItStands := by
  refine ⟨fun a s t sl moves _ hc h htrace hexplained => ?_, fun a v s t sl moves _ hc h htrace => ?_⟩
  · obtain ⟨-, -, i0, hframe⟩ := exec_transaction_frame (i := .rdreg a) rfl hc h
    have hevents := List.append_cancel_left (htrace.symm.trans hframe)
    obtain ⟨before, after, rfl, hlength, hplace⟩ := sl.dataByte_of_frame hevents
    exact ⟨before, after, rfl, hlength, (sl.afterMoves before).answer_read hplace (explainsMoves_at sl hexplained)⟩
  · obtain ⟨-, -, i0, hframe⟩ := exec_transaction_frame (i := .wrreg a v) rfl hc h
    have hevents := List.append_cancel_left (htrace.symm.trans hframe)
    obtain ⟨before, after, rfl, hlength, hplace⟩ := sl.dataByte_of_frame hevents
    exact ⟨before, after, rfl, hlength, (sl.afterMoves before).observe_write hplace v t.rxd⟩

/-- A frame explained with the registers held still and a read header has the register for its second answer (R67). -/
theorem IdealSlave.explains_read {a : Fin 128} {i0 out i1 : Byte}
    (h : sl.explains (frameEvents (header true a) i0 out i1) = true) : i1 = sl.sreg.get a :=
  ((sl.move (.bus .select)).move (.bus (.send (header true a) i0))).answer_read rfl
    (explainsMoves_at sl (before := [.bus .select, .bus (.send (header true a) i0)]) h)

/-- Settles O50: the frames of the two commands, seen by a slave whose registers are held still. -/
theorem idealSlaveReturnsWhatWasWritten : Obligations.IdealSlaveReturnsWhatWasWritten := by
  refine ⟨fun a s t sl added _ hc h htrace hexplained => ?_, fun a v s t sl added _ hc h htrace hexplained => ?_⟩
  · obtain ⟨-, -, i0, hframe⟩ := exec_transaction_frame (i := .rdreg a) rfl hc h
    rw [List.append_cancel_left (htrace.symm.trans hframe)] at hexplained
    exact sl.explains_read hexplained
  · obtain ⟨u, hwrite, hrest⟩ := execAll_cons_next h
    obtain ⟨u', hread, hend⟩ := execAll_cons_next hrest
    cases hend
    obtain ⟨-, hcu, i0, hframe⟩ := exec_transaction_frame (i := .wrreg a v) rfl hc hwrite
    obtain ⟨-, -, j0, hframe'⟩ := exec_transaction_frame (i := .rdreg a) rfl hcu hread
    rw [hframe', hframe, List.append_assoc] at htrace
    rw [← List.append_cancel_left htrace, IdealSlave.explains, List.map_append, IdealSlave.explainsMoves_append,
      Bool.and_eq_true] at hexplained
    have hstored : (sl.after (frameEvents (header false a) i0 v u.rxd)).sreg.get a = v :=
      ((sl.observe .select).observe (.send (header false a) i0)).observe_write rfl v u.rxd
    exact ((sl.after _).explains_read hexplained.2).trans hstored

end Sys2Proof.Machine
end

section
/-! PROOFS. The invariant of the machine (10_state; 41_shifter_wire R152; 42_register_client R195): what holds at every point
inside a command is kept by every operation, and where a command stops it gives the invariant back. -/

namespace Sys2Proof.Machine

/-! ### The sampled bits -/

theorem setBit_contains {h m : Byte} (hm : h &&& m = m) {p : Nat} (hp : p < 8) :
    setBit h p true &&& setBit m p true = setBit m p true := by
  apply BitVec.eq_of_getLsbD_eq
  intro i hi
  have hbit : (h.getLsbD i && m.getLsbD i) = m.getLsbD i := by rw [← BitVec.getLsbD_and, hm]
  rw [BitVec.getLsbD_and, getLsbD_setBit _ _ _ _ hp, getLsbD_setBit _ _ _ _ hp]
  split
  · rfl
  · exact hbit

theorem sampledBits_eq_fillBits (cpha lsbFirst : Bool) {n : Nat} (hn : n ≤ 16) :
    sampledBits cpha lsbFirst n = fillBits 0#8 0xFF#8 lsbFirst (cellsDone cpha n) := sampledBits_eq cpha lsbFirst n hn

theorem sampledBits_zero (cpha lsbFirst : Bool) : sampledBits cpha lsbFirst 0 = 0#8 := by cases cpha <;> rfl

theorem sampledBits_sixteen (cpha lsbFirst : Bool) : sampledBits cpha lsbFirst 16 = 0xFF#8 := by
  rw [sampledBits_eq_fillBits _ _ (Nat.le_refl 16), cellsDone_sixteen, fillBits_eight]

/-- What an edge adds to the sampled bits (R156, R160). -/
theorem sampledBits_succ (cpha lsbFirst : Bool) {n : Nat} (hn : n < 16) : sampledBits cpha lsbFirst (n + 1)
    = if decide (n % 2 = 1) = cpha then setBit (sampledBits cpha lsbFirst n) (bitPos lsbFirst (n / 2)) true
      else sampledBits cpha lsbFirst n := by
  rw [sampledBits_eq_fillBits _ _ hn, sampledBits_eq_fillBits _ _ (Nat.le_of_lt hn)]
  split
  · rename_i hsampling
    obtain ⟨hbefore, hafter⟩ := cellsDone_of_sampling hsampling
    rw [hbefore, hafter, fillBits_succ, getLsbD_allOnes_byte (bitPos_lt (by omega))]
  · rename_i hshifting
    rw [cellsDone_of_shifting hshifting]

/-- An edge step at once for leading and trailing edges: what it does to SCK, EDGE and the flags of RXSR's bits (R160). -/
theorem edgeStep_fields {s : State} (hen : s.edgeEnabled = true) : ∃ p r env, (p = s.sdo ∨ ∃ b, p = .driven b)
    ∧ s.edgeStep = { s with
      edge := s.edge + 1, env := env, sck := .driven (s.cpol != decide ((s.edge + 1) % 2 = 1)), sdo := p, rxsr := r
      held := { s.held with
        rxsr := if decide (s.edge % 2 = 1) = s.cpha then setBit s.held.rxsr (bitPos s.lsbFirst (s.edge / 2)) true
          else s.held.rxsr } } := by
  obtain ⟨k, hk | hk⟩ : ∃ k, s.edge = 2 * k ∨ s.edge = 2 * k + 1 := ⟨s.edge / 2, by omega⟩
  · obtain ⟨draw, env, hstep⟩ := edgeStep_leading hen hk
    have hphase : decide (s.edge % 2 = 1) = false := decide_eq_false (by omega)
    have hlevel : (s.cpol != decide ((s.edge + 1) % 2 = 1)) = !s.cpol := by
      rw [decide_eq_true (by omega : (s.edge + 1) % 2 = 1), Bool.bne_true]
    rw [hstep, hphase, hlevel, hk, Nat.mul_div_cancel_left k (by decide)]
    cases s.cpha
    · exact ⟨_, _, env, .inl rfl, rfl⟩
    · exact ⟨_, _, env, .inr ⟨_, rfl⟩, rfl⟩
  · obtain ⟨draw, env, hstep⟩ := edgeStep_trailing hen hk
    have hphase : decide (s.edge % 2 = 1) = true := decide_eq_true (by omega)
    have hlevel : (s.cpol != decide ((s.edge + 1) % 2 = 1)) = s.cpol := by
      rw [decide_eq_false (by omega : ¬(s.edge + 1) % 2 = 1), Bool.bne_false]
    have hcell : (2 * k + 1) / 2 = k := by omega
    rw [hstep, hphase, hlevel, hk, hcell]
    cases s.cpha
    · refine ⟨_, _, env, ?_, rfl⟩
      split
      · exact .inr ⟨_, rfl⟩
      · exact .inl rfl
    · exact ⟨_, _, env, .inl rfl, rfl⟩

/-! ### Inside a command -/

/-- What holds from acceptance to retirement and while the command waits. -/
structure Running (s : State) : Prop where
  cfgReserved : s.cfg &&& ~~~cfgFields = 0#16
  statReserved : s.stat &&& ~~~tcMask = 0#16
  legal : legalConfig (s.cfg.extractLsb' 0 9) = true
  enabled : s.enabled = true
  csn : s.csn ≠ .released
  sdo : s.sdo ≠ .released
  /-- SCK is at its idle level but after an odd edge of a transfer (R152). -/
  sck : s.sck = .driven (s.cpol != (s.shifting && decide (s.edge % 2 = 1)))
  edgeBound : s.edge ≤ 16
  tcHolds : s.tc = true → s.held.rxd = true ∧ s.held.rxsr = 0xFF#8 ∧ s.rxd = s.rxsr
  /-- In a transfer TC is 0, and TXSR and the bits of RXSR sampled so far hold values (R156, R160). -/
  inTransfer : s.shifting = true → s.tc = false ∧ s.held.txsr = true
    ∧ s.held.rxsr &&& sampledBits s.cpha s.lsbFirst s.edge = sampledBits s.cpha s.lsbFirst s.edge
  heldCmdr : s.held.cmdr = true
  /-- While a high byte is read LOB holds the low byte (R192). -/
  heldLob : s.hl = true → s.held.lob = true

namespace Running

section
variable {s : State} (h : Running s)
include h

/-! ### Pins, events and the sequencer's registers -/

theorem goTo (next : Seq) : Running (s.goTo next) := { h with }

theorem driveCsn (level : Bool) : Running (s.driveCsn level) := { h with csn := Pin.noConfusion }

theorem emit (ev : BusEvent) : Running (s.emit ev) := { h with }

theorem keepLow : Running s.keepLow := { h with heldLob := fun _ => rfl }

theorem assemble : Running s.assemble := { h with heldLob := fun hhl => nomatch hhl }

theorem nextAxis : Running s.nextAxis := by
  unfold State.nextAxis
  split
  · exact { h with }
  · exact { h with }
  · exact h

theorem axisLatch : Running s.axisLatch := by
  unfold State.axisLatch
  split
  · exact h.assemble.nextAxis
  · exact h.keepLow

/-! ### The byte transfer -/

theorem startTransfer (hs : s.shifting = false) (out : Byte) : Running (s.startTransfer out) := by
  have hcleared : (s.stat &&& ~~~tcMask) &&& ~~~tcMask = 0#16 := by rw [h.statReserved, BitVec.zero_and]
  have htc : (s.startTransfer out).tc = false := tc_eq_false_of_cleared (startTransfer_stat s out)
  have hsck : s.sck = .driven (s.cpol != (true && decide (0 % 2 = 1))) := by rw [h.sck, hs]; rfl
  rw [startTransfer_fields] at htc ⊢
  refine { h with
    statReserved := hcleared, sdo := ?_, sck := hsck, edgeBound := Nat.zero_le 16
    tcHolds := fun hset => absurd (htc.symm.trans hset) Bool.false_ne_true
    inTransfer := fun _ => ⟨htc, rfl, ?_⟩ }
  · show (if s.cpha then s.sdo else _) ≠ _
    split
    · exact h.sdo
    · exact Pin.noConfusion
  · show _ &&& sampledBits s.cpha s.lsbFirst 0 = sampledBits s.cpha s.lsbFirst 0
    rw [sampledBits_zero, BitVec.and_zero]

theorem edgeStep : Running s.edgeStep := by
  by_cases hen : s.edgeEnabled = true
  · obtain ⟨p, r, env, hp, hstep⟩ := edgeStep_fields hen
    simp only [State.edgeEnabled, Bool.and_eq_true, decide_eq_true_eq] at hen
    obtain ⟨⟨⟨hs, -⟩, -⟩, hedge⟩ := hen
    obtain ⟨htc, htxsr, hsampled⟩ := h.inTransfer hs
    rw [hstep]
    refine { h with
      sdo := ?_, sck := ?_, edgeBound := hedge, tcHolds := fun hset => absurd (htc.symm.trans hset) Bool.false_ne_true
      inTransfer := fun _ => ⟨htc, htxsr, ?_⟩ }
    · obtain rfl | ⟨b, rfl⟩ := hp
      · exact h.sdo
      · exact Pin.noConfusion
    · show Pin.driven _ = .driven (s.cpol != (s.shifting && _))
      rw [hs, Bool.true_and]
    · show (if decide (s.edge % 2 = 1) = s.cpha then _ else _) &&& sampledBits s.cpha s.lsbFirst (s.edge + 1)
        = sampledBits s.cpha s.lsbFirst (s.edge + 1)
      rw [sampledBits_succ _ _ hedge]
      split
      · exact setBit_contains hsampled (bitPos_lt (by omega))
      · exact hsampled
  · rw [edgeStep_blocked (Bool.eq_false_iff.mpr hen)]
    exact h

theorem complete : Running s.complete := by
  unfold State.complete
  split
  · rename_i hdone
    simp only [Bool.and_eq_true, decide_eq_true_eq] at hdone
    obtain ⟨hs, hedge⟩ := hdone
    obtain ⟨-, -, hsampled⟩ := h.inTransfer hs
    have hfull : s.held.rxsr = 0xFF#8 := by
      rw [hedge, sampledBits_sixteen] at hsampled
      exact BitVec.and_allOnes.symm.trans hsampled
    have hsck : s.sck = .driven (s.cpol != (false && decide (s.edge % 2 = 1))) := by
      rw [h.sck, hs, hedge]; rfl
    have hstat : (s.stat ||| tcMask) &&& ~~~tcMask = 0#16 := Eq.trans (setTc_statKept s) h.statReserved
    exact { h with
      statReserved := hstat, sck := hsck, tcHolds := fun _ => ⟨rfl, hfull, rfl⟩, inTransfer := fun hset => nomatch hset }
  · exact h

end

theorem edges {s : State} (h : Running s) (n : Nat) : Running (s.edges n) := by
  induction n generalizing s with
  | zero => exact h
  | succ n ih => exact ih h.edgeStep

section
variable {s : State} (h : Running s)
include h

theorem transfer (out : Byte) : Running (s.transfer out) := by
  refine (Running.edges ?_ 16).complete
  unfold State.started
  split
  · exact h
  · exact h.startTransfer (Bool.eq_false_iff.mpr ‹_›) out

theorem advance (next : Seq) : Running (s.advance next) := by
  unfold State.advance
  split
  · exact h
  · exact h.goTo next

theorem selectPhase : Running s.selectPhase := by
  unfold State.selectPhase
  split
  · exact ((h.driveCsn false).emit .select).goTo .addr
  · exact h

theorem addrPhase (hdr : Byte) : Running (s.addrPhase hdr) := by
  unfold State.addrPhase
  split
  · exact (h.transfer hdr).advance .data
  · exact h

theorem dataPhase (out : Byte) : Running (s.dataPhase out) := by
  unfold State.dataPhase
  split
  · exact (h.transfer out).advance .deselect
  · exact h

theorem deselectPhase : Running s.deselectPhase := by
  unfold State.deselectPhase
  split
  · exact ((h.driveCsn true).emit .deselect).goTo .idle
  · exact h

theorem transaction (rw : Bool) (a : Nat) (d : Byte) : Running (s.transaction rw a d) :=
  ((h.selectPhase.addrPhase _).dataPhase _).deselectPhase

theorem axisTransaction (base : Nat) : Running (s.axisTransaction base) := h.transaction true _ dummyByte

end

end Running

end Sys2Proof.Machine
end

section
/-! PROOFS. Where a command stops (42_register_client R195), and the invariant of the machine at reset and over every step. -/

namespace Sys2Proof.Machine

/-! ### A transfer completes or stops for want of a clock -/

theorem edgeStep_of_enabled {s : State} (hen : s.edgeEnabled = true) : s.edgeStep.edge = s.edge + 1 := by
  obtain ⟨p, r, env, -, hstep⟩ := edgeStep_fields hen
  rw [hstep]

theorem edgeEnabled_iff {s : State} : s.edgeEnabled = true
    ↔ s.shifting = true ∧ s.enabled = true ∧ s.env.clock ≠ some 0 ∧ s.edge < 16 := by
  simp [State.edgeEnabled, Env.clockRunning, and_assoc]

theorem edgeStep_shifting (s : State) : s.edgeStep.shifting = s.shifting := by
  unfold State.edgeStep State.edgePins State.leadingEdge State.trailingEdge
  repeat' split
  all_goals rfl

theorem edges_shifting (s : State) (n : Nat) : (s.edges n).shifting = s.shifting := by
  induction n generalizing s with
  | zero => rfl
  | succ n ih => rw [State.edges, ih, edgeStep_shifting]

/-- A run of edges makes as many as it is asked for, or reaches the sixteenth, or finds the clock stopped (R160). -/
theorem edges_done_or_stopped {s : State} (hs : s.shifting = true) (hon : s.enabled = true) (n : Nat) :
    s.edge + n ≤ (s.edges n).edge ∨ 16 ≤ (s.edges n).edge ∨ (s.edges n).env.clock = some 0 := by
  induction n generalizing s with
  | zero => exact .inl (Nat.le_refl _)
  | succ n ih =>
    by_cases hen : s.edgeEnabled = true
    · have hstep := ih (s := s.edgeStep) ((edgeStep_shifting s).trans hs)
        ((enabled_of_cfg (edgeStep_frame s).cfg).trans hon)
      rw [edgeStep_of_enabled hen] at hstep
      exact hstep.imp_left (by rw [State.edges]; omega)
    · rw [edges_blocked (Bool.eq_false_iff.mpr hen)]
      rw [edgeEnabled_iff] at hen
      by_cases hclock : s.env.clock = some 0
      · exact .inr (.inr hclock)
      · exact .inr (.inl (by
          by_contra hlt
          exact hen ⟨hs, hon, hclock, by omega⟩))

theorem complete_shifting {s : State} (h : s.complete.shifting = true) : s.complete = s ∧ s.shifting = true ∧ s.edge ≠ 16 := by
  rw [State.complete] at h ⊢
  split
  · rename_i hdone
    rw [if_pos hdone] at h
    cases h
  · rename_i hnot
    rw [if_neg hnot] at h
    refine ⟨rfl, h, fun hedge => hnot ?_⟩
    rw [h, decide_eq_true hedge]
    rfl

/-- A transfer that has not completed waits for the clock before its sixteenth edge (R134). -/
theorem Running.transfer_waits {s : State} (h : Running s) {out : Byte} (hs : (s.transfer out).shifting = true) :
    (s.transfer out).edge < 16 ∧ (s.transfer out).env.clock = some 0 := by
  have hedges : Running ((s.started out).edges 16) := by
    unfold State.started
    split
    · exact h.edges 16
    · exact (h.startTransfer (Bool.eq_false_iff.mpr ‹_›) out).edges 16
  obtain ⟨hsame, hshifting, hedge⟩ := complete_shifting (s := (s.started out).edges 16) hs
  rw [State.transfer, hsame]
  have hbound := hedges.edgeBound
  rw [edges_shifting] at hshifting
  have hon : (s.started out).enabled = true := (enabled_of_cfg (started_frame s out).cfg).trans h.enabled
  refine ⟨by omega, ?_⟩
  obtain hdone | hdone | hclock := edges_done_or_stopped hshifting hon 16
  · omega
  · omega
  · exact hclock

/-! ### Where a transaction stops -/

/-- The command has retired, or waits in a transfer with its frame open (R195). -/
def Settled (t : State) : Prop :=
  (t.seq = .idle ∧ t.shifting = false) ∨ (WaitsForClock t ∧ t.csn = .driven false)

/-- A transaction is about to begin, or has opened its frame (R182). -/
def Entered (s : State) : Prop :=
  (s.seq = .select ∧ s.shifting = false) ∨ ((s.seq = .addr ∨ s.seq = .data) ∧ s.csn = .driven false)

section
variable {s : State} (h : Running s)
include h

theorem dataPhase_settled (hseq : s.seq = .data) (hcsn : s.csn = .driven false) (out : Byte) :
    Settled (s.dataPhase out).deselectPhase := by
  rw [dataPhase_at hseq]
  cases hs : (s.transfer out).shifting with
  | false =>
    rw [advance_done hs, deselectPhase_at rfl]
    exact .inl ⟨rfl, hs⟩
  | true =>
    have hframe := transfer_frame s out
    obtain ⟨hedge, hclock⟩ := h.transfer_waits hs
    rw [advance_waiting hs, deselectPhase_off (by rw [hframe.seq, hseq]; decide)]
    exact .inr ⟨⟨.inr (hframe.seq.trans hseq), hs, hedge, hclock⟩, hframe.csn.trans hcsn⟩

theorem addrPhase_settled (hseq : s.seq = .addr) (hcsn : s.csn = .driven false) (hdr out : Byte) :
    Settled ((s.addrPhase hdr).dataPhase out).deselectPhase := by
  rw [addrPhase_at hseq]
  have hframe := transfer_frame s hdr
  cases hs : (s.transfer hdr).shifting with
  | false =>
    rw [advance_done hs]
    exact dataPhase_settled ((h.transfer hdr).goTo .data) rfl (hframe.csn.trans hcsn) out
  | true =>
    obtain ⟨hedge, hclock⟩ := h.transfer_waits hs
    have hstill : (s.transfer hdr).seq = .addr := hframe.seq.trans hseq
    rw [advance_waiting hs, dataPhase_off (by rw [hstill]; decide), deselectPhase_off (by rw [hstill]; decide)]
    exact .inr ⟨⟨.inl hstill, hs, hedge, hclock⟩, hframe.csn.trans hcsn⟩

/-- A transaction retires or waits with its frame open (R182, R195). -/
theorem transaction_settled (hin : Entered s) (rw : Bool) (a : Nat) (d : Byte) : Settled (s.transaction rw a d) := by
  unfold State.transaction
  obtain ⟨hseq, -⟩ | ⟨hseq | hseq, hcsn⟩ := hin
  · rw [selectPhase_at hseq]
    exact addrPhase_settled (((h.driveCsn false).emit .select).goTo .addr) rfl rfl _ _
  · rw [selectPhase_off (by rw [hseq]; decide)]
    exact addrPhase_settled h hseq hcsn _ _
  · rw [selectPhase_off (by rw [hseq]; decide), addrPhase_off (by rw [hseq]; decide)]
    exact dataPhase_settled h hseq hcsn _

end

/-- How many of RDAXES's reads come before the one at (AI, HL) (R192). -/
def State.readsBefore (s : State) : Nat := 2 * s.ai.index + s.hl.toNat

/-- After a read RDAXES has retired with HL = 0, or its next read begins (R192). -/
theorem axisLatch_next {s : State} (hidle : s.seq = .idle) (hs : s.shifting = false) :
    (s.axisLatch.seq = .idle ∧ s.axisLatch.shifting = false ∧ s.axisLatch.hl = false)
      ∨ (Entered s.axisLatch ∧ s.axisLatch.readsBefore = s.readsBefore + 1) := by
  cases hhl : s.hl with
  | false =>
    have hlatch : s.axisLatch = s.keepLow := by rw [State.axisLatch, hhl]; rfl
    rw [hlatch, State.readsBefore, State.readsBefore, hhl]
    exact .inr ⟨.inl ⟨rfl, hs⟩, rfl⟩
  | true =>
    have hlatch : s.axisLatch = s.assemble.nextAxis := by rw [State.axisLatch, hhl]; rfl
    rw [hlatch, State.readsBefore, State.readsBefore, hhl]
    have hai : s.assemble.ai = s.ai := rfl
    unfold State.nextAxis
    rw [hai]
    cases s.ai with
    | x => exact .inr ⟨.inl ⟨rfl, hs⟩, rfl⟩
    | y => exact .inr ⟨.inl ⟨rfl, hs⟩, rfl⟩
    | z => exact .inl ⟨hidle, hs, rfl⟩

/-- RDAXES retires with HL = 0 or waits with its frame open (R192, R195). -/
theorem axisReads_settled {s : State} (h : Running s) (hin : Entered s) (base : Nat) {n : Nat}
    (hn : 6 ≤ s.readsBefore + n) :
    Running (s.axisReads base n) ∧ Settled (s.axisReads base n)
      ∧ ((s.axisReads base n).seq = .idle → (s.axisReads base n).hl = false) := by
  induction n generalizing s with
  | zero =>
    have hlast : s.readsBefore ≤ 5 := by
      unfold State.readsBefore
      cases s.ai <;> cases s.hl <;> decide
    omega
  | succ n ih =>
    have hrun : s.seq ≠ .idle := by
      obtain ⟨hseq, -⟩ | ⟨hseq | hseq, -⟩ := hin <;> rw [hseq] <;> decide
    have hread : Running (s.axisTransaction base) := h.axisTransaction base
    have hsettled : Settled (s.axisTransaction base) := transaction_settled h hin true _ dummyByte
    have hframe := axisTransaction_frame s base
    rw [State.axisReads, if_neg hrun, State.axisRead]
    obtain ⟨hidle, hs⟩ | ⟨hwaits, hcsn⟩ := hsettled
    · rw [if_pos hidle]
      obtain ⟨hretired, hshifting, hhl⟩ | ⟨hnext, hcount⟩ := axisLatch_next hidle hs
      · rw [axisReads_idle hretired]
        exact ⟨hread.axisLatch, .inl ⟨hretired, hshifting⟩, fun _ => hhl⟩
      · refine ih hread.axisLatch hnext ?_
        have hsame : (s.axisTransaction base).readsBefore = s.readsBefore := by
          rw [State.readsBefore, hframe.ai, hframe.hl, State.readsBefore]
        omega
    · rw [if_neg hwaits.notIdle, axisReads_waiting base n hwaits.seq hwaits.shifting hwaits.edge hwaits.clock]
      exact ⟨hread, .inr ⟨hwaits, hcsn⟩, fun hidle => absurd hidle hwaits.notIdle⟩

/-! ### The invariant and the inside of a command -/

/-- The invariant does not look at the environment or at what the host has read. -/
theorem Inv.congr {s : State} (h : Inv s) (env : Env) (hostData : Option (BitVec 16)) (unwrittenReads : Nat) :
    Inv { s with env := env, hostData := hostData, unwrittenReads := unwrittenReads } := { h with }

theorem holdsWhatItReads_iff (s : State) : s.holdsWhatItReads = true ↔ s.held.cmdr = true
    ∧ (s.shifting = true → s.held.txsr = true
      ∧ s.held.rxsr &&& sampledBits s.cpha s.lsbFirst s.edge = sampledBits s.cpha s.lsbFirst s.edge)
    ∧ (s.hl = true → s.held.lob = true) := by
  unfold State.holdsWhatItReads
  cases s.shifting <;> cases s.hl <;> simp [and_assoc]

section
variable {s : State} (h : Inv s)
include h

/-- SCK in and outside a transfer at once (R152). -/
theorem Inv.sck (hon : s.enabled = true) : s.sck = .driven (s.cpol != (s.shifting && decide (s.edge % 2 = 1))) := by
  cases hs : s.shifting with
  | false => rw [h.sckIdle hon hs, Bool.false_and, Bool.bne_false]
  | true => rw [h.sckShifting hon hs, Bool.true_and]

/-- Once accepted a command is inside its body. -/
theorem Inv.accept_running (hidle : s.seq = .idle) (hon : s.enabled = true) (w : CommandWord) (first : Seq) :
    Running (s.accept w first) := by
  obtain ⟨hs, hhl⟩ := h.atRest hidle
  obtain ⟨hcsn, hsdo⟩ := h.online hon
  have hsck := h.sck hon
  rw [hs] at hsck
  exact ⟨h.cfgReserved, h.statReserved, h.legal hon, hon, hcsn, hsdo, hsck, h.edgeBound, h.tcHolds,
    (fun hset => nomatch hset), rfl, fun hset => absurd (hhl.symm.trans hset) Bool.false_ne_true⟩

/-- A command that has not retired is inside its body. -/
theorem Inv.running (hrun : s.seq ≠ .idle) : Running s := by
  have hon : s.enabled = true := by
    by_contra hoff
    exact hrun (h.offline (Bool.eq_false_iff.mpr hoff)).1
  obtain ⟨hcsn, hsdo⟩ := h.online hon
  obtain ⟨-, -, -, htc, hholds, -⟩ := h.atWork hrun
  obtain ⟨hcmdr, hbits, hlob⟩ := (holdsWhatItReads_iff s).mp hholds
  exact ⟨h.cfgReserved, h.statReserved, h.legal hon, hon, hcsn, hsdo, h.sck hon, h.edgeBound, h.tcHolds,
    fun hs => ⟨htc, hbits hs⟩, hcmdr, hlob⟩

end

/-- Where a command retires or waits the invariant holds again. -/
theorem Running.inv {t : State} (h : Running t) (hrest : t.seq = .idle → t.shifting = false ∧ t.hl = false)
    (hwork : t.seq ≠ .idle → WaitsForClock t ∧ t.waitsInCommand) : Inv t where
  cfgReserved := h.cfgReserved
  statReserved := h.statReserved
  legal := fun _ => h.legal
  offline := fun hoff => absurd h.enabled (Bool.eq_false_iff.mp hoff)
  online := fun _ => ⟨h.csn, h.sdo⟩
  sckIdle := fun _ hs => by rw [h.sck, hs, Bool.false_and, Bool.bne_false]
  sckShifting := fun _ hs => by rw [h.sck, hs, Bool.true_and]
  edgeBound := h.edgeBound
  atRest := hrest
  atWork := fun hrun => by
    obtain ⟨hwaits, hcommand⟩ := hwork hrun
    obtain ⟨htc, hbits⟩ := h.inTransfer hwaits.shifting
    exact ⟨hwaits.seq, hwaits.shifting, hwaits.edge, htc,
      (holdsWhatItReads_iff t).mpr ⟨h.heldCmdr, fun _ => hbits, h.heldLob⟩, hcommand⟩
  tcHolds := h.tcHolds

/-! ### The commands' bodies give the invariant back -/

/-- CMDR's word is RDREG's or WRREG's. -/
def IsRegisterWord (w : CommandWord) : Prop :=
  (∃ a, decodeCommand w = .ok (.rdreg a)) ∨ ∃ a d, decodeCommand w = .ok (.wrreg a d)

theorem waitsInCommand_of_xfer {t : State} {d : Byte} (hword : decodeCommand t.cmdr = .ok (.xfer d)) :
    t.waitsInCommand ↔ t.seq = .data ∧ t.hl = false := by rw [State.waitsInCommand, hword]

theorem waitsInCommand_of_registerWord {t : State} (hword : IsRegisterWord t.cmdr) :
    t.waitsInCommand ↔ t.csn = .driven false ∧ t.hl = false := by
  obtain ⟨a, hword⟩ | ⟨a, d, hword⟩ := hword <;> rw [State.waitsInCommand, hword]

theorem waitsInCommand_of_rdaxes {t : State} {b : Nat} (hword : decodeCommand t.cmdr = .ok (.rdaxes b)) :
    t.waitsInCommand ↔ t.csn = .driven false ∧ baseInRange b = true := by rw [State.waitsInCommand, hword]

section
variable {s : State} (h : Running s)
include h

theorem Running.xfer_inv (hseq : s.seq = .data) (hhl : s.hl = false) {d : Byte}
    (hword : decodeCommand s.cmdr = .ok (.xfer d)) (out : Byte) : Inv (s.runXfer out) := by
  have hframe := transfer_frame s out
  have hlow : (s.transfer out).hl = false := hframe.hl.trans hhl
  have hruns : Running (s.runXfer out) := (h.transfer out).advance .idle
  cases hs : (s.transfer out).shifting with
  | false =>
    have hretired : s.runXfer out = (s.transfer out).goTo .idle := advance_done hs .idle
    rw [hretired] at hruns ⊢
    exact hruns.inv (fun _ => ⟨hs, hlow⟩) fun hrun => absurd rfl hrun
  | true =>
    have hwaiting : s.runXfer out = s.transfer out := advance_waiting hs .idle
    have hdata : (s.transfer out).seq = .data := hframe.seq.trans hseq
    obtain ⟨hedge, hclock⟩ := h.transfer_waits hs
    have hwaits : WaitsForClock (s.transfer out) := ⟨.inr hdata, hs, hedge, hclock⟩
    have hword' : decodeCommand (s.transfer out).cmdr = .ok (.xfer d) := hframe.cmdr ▸ hword
    rw [hwaiting] at hruns ⊢
    exact hruns.inv (fun hidle => absurd hidle hwaits.notIdle)
      fun _ => ⟨hwaits, (waitsInCommand_of_xfer hword').mpr ⟨hdata, hlow⟩⟩

theorem Running.transaction_inv (hin : Entered s) (hhl : s.hl = false) (hword : IsRegisterWord s.cmdr)
    (rw : Bool) (a : Nat) (d : Byte) : Inv (s.transaction rw a d) := by
  have hframe := transaction_frame s rw a d
  have hlow : (s.transaction rw a d).hl = false := hframe.hl.trans hhl
  have hword' : IsRegisterWord (s.transaction rw a d).cmdr := hframe.cmdr ▸ hword
  refine (h.transaction rw a d).inv (fun hidle => ?_) (fun hrun => ?_)
  all_goals obtain ⟨hidle', hs⟩ | ⟨hwaits, hcsn⟩ := transaction_settled h hin rw a d
  · exact ⟨hs, hlow⟩
  · exact absurd hidle hwaits.notIdle
  · exact absurd hidle' hrun
  · exact ⟨hwaits, (waitsInCommand_of_registerWord hword').mpr ⟨hcsn, hlow⟩⟩

theorem Running.axes_inv (hin : Entered s) {b : Nat} (hword : decodeCommand s.cmdr = .ok (.rdaxes b))
    (hb : baseInRange b = true) : Inv (s.runAxes b) := by
  have hframe := axisReads_bodyFrame s b 6
  have hword' : decodeCommand (s.runAxes b).cmdr = .ok (.rdaxes b) := hframe.cmdr ▸ hword
  obtain ⟨hruns, hsettled, hlow⟩ := axisReads_settled h hin b (n := 6) (by omega)
  refine Running.inv hruns (fun hidle => ?_) (fun hrun => ?_)
  all_goals obtain ⟨hidle', hs⟩ | ⟨hwaits, hcsn⟩ := hsettled
  · exact ⟨hs, hlow hidle⟩
  · exact absurd hidle hwaits.notIdle
  · exact absurd hidle' hrun
  · exact ⟨hwaits, (waitsInCommand_of_rdaxes hword').mpr ⟨hcsn, hb⟩⟩

end

/-! ### Instructions keep the invariant -/

theorem init_inv {s : State} (h : Inv s) (hidle : s.seq = .idle) (hoff : s.enabled = false) {cfg : BitVec 9}
    (hlegal : legalConfig cfg = true) (w : CommandWord) (first : Seq) : Inv ((s.accept w first).initialise cfg).retire := by
  obtain ⟨-, -, -, -, -, htc⟩ := h.offline hoff
  obtain ⟨-, hhl⟩ := h.atRest hidle
  have hfields : (configured cfg).extractLsb' 0 9 = cfg := BitVec.extractLsb'_append_eq_right
  have hpolarity : (configured cfg).getLsbD 1 = cfg.getLsbD 1 := by
    rw [configured, BitVec.getLsbD_append]; rfl
  have hreserved : configured cfg &&& ~~~cfgFields = 0#16 := by
    show (1#1 ++ 0#6 ++ cfg) &&& (0#1 ++ 0x3F#6 ++ 0#9) = 0#16
    rw [BitVec.and_append, BitVec.and_zero]
    rfl
  have hon : (configured cfg).getLsbD 15 = true := configured_enabled cfg
  rw [initialise_eq]
  exact {
    cfgReserved := hreserved
    statReserved := h.statReserved
    legal := fun _ => (congrArg legalConfig hfields).trans hlegal
    offline := fun hoff => absurd (hon.symm.trans hoff) (by decide)
    online := fun _ => ⟨Pin.noConfusion, Pin.noConfusion⟩
    sckIdle := fun _ _ => congrArg Pin.driven hpolarity.symm
    sckShifting := fun _ hs => nomatch hs
    edgeBound := h.edgeBound
    atRest := fun _ => ⟨rfl, hhl⟩
    atWork := fun hrun => absurd rfl hrun
    tcHolds := h.tcHolds }

theorem wellFormed_transaction {i : Instr} {rw : Bool} {a : Nat} {d : Byte} (hi : transactionOf i = some (rw, a, d))
    (ha : addressInRange a = true) : WellFormed i = true := by
  cases i with
  | rdreg | wrreg | rdframe | wrframe => cases hi; exact ha
  | init | select | deselect | xfer | rdaxes => cases hi

theorem isRegisterWord_commandWord {i : Instr} {rw : Bool} {a : Nat} {d : Byte} (hi : transactionOf i = some (rw, a, d))
    (ha : addressInRange a = true) : IsRegisterWord (commandWord i) := by
  have hword := decodeCommand_commandWord (wellFormed_transaction hi ha)
  cases i with
  | rdreg | rdframe => exact .inl ⟨_, hword⟩
  | wrreg | wrframe => exact .inr ⟨_, _, hword⟩
  | init | select | deselect | xfer | rdaxes => cases hi

theorem wellFormed_rdaxes {b : Nat} (hb : baseInRange b = true) : WellFormed (.rdaxes b) = true :=
  decide_eq_true (by have := baseInRange_iff.mp hb; omega)

/-- Every instruction gives the invariant back. -/
theorem exec_inv {i : Instr} {s t : State} (h : Inv s) (hnext : exec i s = .next t) : Inv t := by
  cases bodyKind i with
  | init cfg =>
    obtain ⟨hidle, hoff, hlegal, rfl⟩ := execInit_next.mp hnext
    exact init_inv h hidle hoff hlegal _ _
  | select =>
    obtain ⟨hidle, hon, rfl⟩ := execSelect_next.mp hnext
    have hrun := ((h.accept_running hidle hon (commandWord .select) .select).driveCsn false).emit .select
    exact (hrun.goTo .idle).inv (fun _ => ⟨rfl, (h.atRest hidle).2⟩) fun hne => absurd rfl hne
  | deselect =>
    obtain ⟨hidle, hon, rfl⟩ := execDeselect_next.mp hnext
    have hrun := ((h.accept_running hidle hon (commandWord .deselect) .deselect).driveCsn true).emit .deselect
    exact (hrun.goTo .idle).inv (fun _ => ⟨rfl, (h.atRest hidle).2⟩) fun hne => absurd rfl hne
  | xfer d =>
    obtain ⟨hidle, hon, rfl⟩ := exec_xfer_next.mp hnext
    exact (h.accept_running hidle hon _ .data).xfer_inv rfl (h.atRest hidle).2
      (decodeCommand_commandWord (i := .xfer d) rfl) d
  | transaction hbody =>
    obtain ⟨hs, ha, rfl⟩ := (exec_transaction_next hbody).mp hnext
    obtain ⟨hidle, hon, -⟩ := (ready_iff s).mp hs
    exact (h.accept_running hidle hon _ .select).transaction_inv (.inl ⟨rfl, rfl⟩) (h.atRest hidle).2
      (isRegisterWord_commandWord hbody ha) _ _ _
  | rdaxes b =>
    obtain ⟨hs, hb, rfl⟩ := exec_rdaxes_next.mp hnext
    obtain ⟨hidle, hon, -⟩ := (ready_iff s).mp hs
    have hrun := h.accept_running hidle hon (commandWord (.rdaxes b)) .select
    have hstart : Running (s.axesAccepted b) := { hrun with heldLob := fun hhl => nomatch hhl }
    exact hstart.axes_inv (.inl ⟨rfl, rfl⟩) (decodeCommand_commandWord (wellFormed_rdaxes hb)) hb

/-! ### Steps keep the invariant -/

theorem continueCommand_inv {s t : State} (h : Inv s) (hrun : s.seq ≠ .idle) (hnext : s.continueCommand = .next t) :
    Inv t := by
  obtain ⟨hseq, -, -, -, hholds, hcommand⟩ := h.atWork hrun
  have hruns := h.running hrun
  have hcase := continueCommand_next hnext
  rw [readable_eq hholds] at hcase
  obtain ⟨d, hword, rfl⟩ | ⟨a, hword, rfl⟩ | ⟨a, d, hword, rfl⟩ | ⟨b, hword, rfl⟩ := hcase
  · obtain ⟨hdata, hhl⟩ := (waitsInCommand_of_xfer hword).mp hcommand
    exact hruns.xfer_inv hdata hhl hword d
  · obtain ⟨hcsn, hhl⟩ := (waitsInCommand_of_registerWord (.inl ⟨a, hword⟩)).mp hcommand
    exact hruns.transaction_inv (.inr ⟨hseq, hcsn⟩) hhl (.inl ⟨a, hword⟩) _ _ _
  · obtain ⟨hcsn, hhl⟩ := (waitsInCommand_of_registerWord (.inr ⟨a, d, hword⟩)).mp hcommand
    exact hruns.transaction_inv (.inr ⟨hseq, hcsn⟩) hhl (.inr ⟨a, d, hword⟩) _ _ _
  · obtain ⟨hcsn, hb⟩ := (waitsInCommand_of_rdaxes hword).mp hcommand
    exact hruns.axes_inv (.inr ⟨hseq, hcsn⟩) hword hb

theorem resume_inv {s t : State} (h : Inv s) (hrun : s.seq ≠ .idle) (hnext : s.resume = .next t) : Inv t := by
  obtain ⟨-, c, later, -, rfl⟩ | ⟨-, hgo⟩ := resume_next hnext
  · exact h.congr _ _ _
  · exact continueCommand_inv h hrun hgo

theorem hostRead_inv {n : Fin 16} {s t : State} (h : Inv s) (hnext : hostRead n s = .next t) : Inv t := by
  obtain ⟨v, -, rfl⟩ | ⟨-, rfl⟩ := hostRead_next.mp hnext
  · exact h.congr _ _ _
  · exact h.congr _ _ _

/-! ### The obligations -/

/-- Settles O42. -/
theorem theInvariantHoldsAtReset : Obligations.TheInvariantHoldsAtReset where
  cfgReserved := rfl
  statReserved := rfl
  legal := fun hon => nomatch hon
  offline := fun _ => ⟨rfl, rfl, rfl, rfl, rfl, rfl⟩
  online := fun hon => nomatch hon
  sckIdle := fun hon => nomatch hon
  sckShifting := fun hon => nomatch hon
  edgeBound := Nat.zero_le 16
  atRest := fun _ => ⟨rfl, rfl⟩
  atWork := fun hrun => absurd rfl hrun
  tcHolds := fun hset => nomatch hset

/-- Settles O43: a command keeps `Running` from acceptance to where it stops, and there the invariant holds again. -/
theorem everyStepKeepsTheInvariant : Obligations.EveryStepKeepsTheInvariant := by
  intro s t h hnext
  obtain ⟨hrun, hresume⟩ | ⟨-, -, rfl⟩ | ⟨-, rest, -, rfl⟩ | ⟨-, n, rest, -, hread⟩ | ⟨-, c, rest, i, -, -, hexec⟩ :=
    step_next hnext
  · exact resume_inv h hrun hresume
  · exact h
  · exact h.congr _ _ _
  · exact hostRead_inv (h.congr _ _ _) hread
  · exact exec_inv (h.congr _ _ _) hexec

end Sys2Proof.Machine
end

section
/-! PROOFS. A command that waits for the clock goes on where it stood and ends as it would have without the pause
(60_exceptions R216). -/

namespace Sys2Proof.Machine

/-- The clock, which has stopped after m of n edges, comes back for the rest of them. -/
def ClockResumes (c : Option Nat) (m n : Nat) : Prop := ∀ b, c = some b → n ≤ m + b

theorem ClockResumes.ne_zero {c : Option Nat} {m n : Nat} (h : ClockResumes c m n) (hm : m < n) : c ≠ some 0 := by
  intro hc
  have := h 0 hc
  omega

theorem ClockResumes.mono {c : Option Nat} {m n m' n' : Nat} (h : ClockResumes c m n) (hn : n' + m ≤ n + m') :
    ClockResumes c m' n' := by
  intro b hb
  have := h b hb
  omega

/-- After j more of the edges the clock still gives the remaining ones. -/
theorem ClockResumes.covers {c : Option Nat} {m n : Nat} (h : ClockResumes c m n) {e : Env} {j k : Nat}
    (he : e.clock = c.map (· - j)) (hk : m + j + k ≤ n) : e.clockCovers k = true := by
  rw [clockCovers_iff, he]
  intro b hb
  obtain ⟨b', hb', rfl⟩ := Option.map_eq_some_iff.mp hb
  have := h b' hb'
  omega

/-! ### Transfers and transactions -/

theorem transfer_goes_on (s : State) (out : Byte) {n : Nat} (hon : s.enabled = true) (hn : n < 16) {c : Option Nat}
    (hc : ClockResumes c n 16) (later : List (Option Nat)) : ((s.stopped out n).withClock c later).transfer out
      = (s.exchanged out).withClock (c.map (· - (16 - n))) later := by
  have hshifting : ((s.startTransfer out).withClock c later).shifting = true := startTransfer_shifting s out
  have hon' : ((s.startTransfer out).withClock c later).enabled = true := (startTransfer_enabled s out).trans hon
  show (afterEdges ((s.startTransfer out).withClock c later) n c).transfer out = _
  rw [transfer_resumed _ out n c hshifting hon' (Nat.le_of_lt hn) fun b hb => by have := hc b hb; omega,
    complete_afterEdges _ _ hshifting, startTransfer_fields]
  rfl

/-- The data byte of an open frame goes on, and the frame is closed (R182). -/
theorem dataPhase_goes_on (s : State) (out : Byte) {n : Nat} (hseq : s.seq = .data) (hon : s.enabled = true) (hn : n < 16)
    {c : Option Nat} (hc : ClockResumes c n 16) (later : List (Option Nat)) :
    (((s.stopped out n).withClock c later).dataPhase out).deselectPhase
      = ((((s.exchanged out).driveCsn true).emit .deselect).goTo .idle).withClock (c.map (· - (16 - n))) later := by
  have hseq' : ((s.stopped out n).withClock c later).seq = .data := (startTransfer_seq s out).trans hseq
  rw [dataPhase_at hseq', transfer_goes_on s out hon hn hc later, advance_done rfl, deselectPhase_at rfl]
  rfl

/-- A transaction before its header byte (R182). -/
def State.atHeader (s : State) : State := ((s.driveCsn false).emit .select).goTo .addr

/-- A transaction before its data byte (R182). -/
def State.atData (s : State) (hdr : Byte) : State := (((s.driveCsn false).emit .select).exchanged hdr).goTo .data

theorem map_sub_sub (c : Option Nat) {m k n : Nat} (h : m + k = n) : (c.map (· - m)).map (· - k) = c.map (· - n) := by
  cases c with
  | none => rfl
  | some b => exact congrArg some ((Nat.sub_sub b m k).trans (by rw [h]))

section
variable {s : State} (rw : Bool) (a : Nat) (d : Byte) {m : Nat} {c : Option Nat} (hon : s.enabled = true) (hm : m < 16)
  (later : List (Option Nat))
include hon hm

theorem stoppedInAddr_goes_on (hc : ClockResumes c m 32) :
    ((s.stoppedInAddr (header rw a) m).withClock c later).transaction rw a d
      = (s.framed (header rw a) (dataByte rw d)).withClock (c.map (· - (32 - m))) later := by
  have hstill : ((s.stoppedInAddr (header rw a) m).withClock c later).seq = .addr :=
    startTransfer_seq s.atHeader (header rw a)
  have hgo := transfer_goes_on s.atHeader (header rw a) hon hm (hc.mono (by omega)) later
  have hcovers : Env.clockCovers { s.env.answered with clock := c.map (· - (16 - m)), clockLater := later } 16 = true :=
    hc.covers rfl (by omega)
  have hdata := transfer_complete (((s.atData (header rw a)).withClock (c.map (· - (16 - m))) later)) (dataByte rw d) rfl
    hon hcovers
  have hsent : ((s.stoppedInAddr (header rw a) m).withClock c later).addrPhase (header rw a)
      = (s.atData (header rw a)).withClock (c.map (· - (16 - m))) later := by
    rw [addrPhase_at hstill, State.stoppedInAddr]
    exact (congrArg (·.advance .data) hgo).trans (advance_done rfl .data)
  rw [State.transaction, selectPhase_off (by rw [hstill]; decide), hsent, dataPhase_at rfl, hdata, advance_done rfl,
    deselectPhase_at rfl, ← map_sub_sub c (show 16 - m + 16 = 32 - m by omega)]
  rfl

theorem stoppedInData_goes_on (hc : ClockResumes c m 16) :
    ((s.stoppedInData (header rw a) (dataByte rw d) m).withClock c later).transaction rw a d
      = (s.framed (header rw a) (dataByte rw d)).withClock (c.map (· - (16 - m))) later := by
  have hstill : ((s.stoppedInData (header rw a) (dataByte rw d) m).withClock c later).seq = .data :=
    startTransfer_seq (s.atData (header rw a)) (dataByte rw d)
  rw [State.transaction, selectPhase_off (by rw [hstill]; decide), addrPhase_off (by rw [hstill]; decide)]
  exact dataPhase_goes_on (s.atData (header rw a)) (dataByte rw d) rfl hon hm hc later

end

/-- A transaction that waits goes on to the end of its frame (R182, R216). -/
theorem transaction_goes_on (s : State) (rw : Bool) (a : Nat) (d : Byte) {m : Nat} (hseq : s.seq = .select)
    (hs : s.shifting = false) (hon : s.enabled = true) (hclock : s.env.clock = some m) (hm : m < 32) {c : Option Nat}
    (hc : ClockResumes c m 32) (later : List (Option Nat)) :
    ((s.transaction rw a d).withClock c later).transaction rw a d
      = (s.framed (header rw a) (dataByte rw d)).withClock (c.map (· - (32 - m))) later := by
  by_cases haddr : m < 16
  · rw [transaction_cut_addr s rw a d m hseq hs hon hclock haddr]
    exact stoppedInAddr_goes_on rw a d hon haddr later hc
  · obtain ⟨n, rfl⟩ : ∃ n, m = 16 + n := ⟨m - 16, by omega⟩
    have hn : n < 16 := by omega
    rw [transaction_cut_data s rw a d n hseq hs hon hclock hn, show 32 - (16 + n) = 16 - n by omega]
    exact stoppedInData_goes_on rw a d hon hn later (hc.mono (by omega))

/-! ### The reads of RDAXES -/

theorem axisLatch_withClock (s : State) (c : Option Nat) (later : List (Option Nat)) :
    (s.withClock c later).axisLatch = s.axisLatch.withClock c later := by
  have hhl : (s.withClock c later).hl = s.hl := rfl
  unfold State.axisLatch
  rw [hhl]
  split
  · exact nextAxis_withClock s.assemble c later
  · rfl

/-- The reads from read j on, with a clock for them: after them RDAXES reads no more (R192). -/
theorem axisReads_rest {s : State} {j : Nat} (hj : j ≤ 5) (h : AxisPoint s (axisAt j) (highAt j) (32 * (6 - j))) (base r : Nat) :
    s.axisReads base (6 - j + r) = s.axisReadsDone base (6 - j) := by
  obtain ⟨k, hk⟩ : ∃ k, 6 - j = k + 1 := ⟨5 - j, by omega⟩
  have hjk : j + k = 5 := by omega
  rw [hk, Nat.mul_succ] at h
  have hlast := h.after j (by omega) base
  rw [hjk] at hlast
  have hretired : ((s.axisReadsDone base k).axisReadDone base).seq = .idle := by
    rw [AxisPoint.last hlast]
    rfl
  rw [hk, Nat.add_assoc, axisReads_after j (1 + r) h (by omega) base, Nat.add_comm 1 r,
    axisReads_succ_complete _ base r hlast.seq hlast.shifting hlast.enabled hlast.clock, axisReads_idle hretired,
    axisReadsDone_succ]

theorem clockCovers_self {e : Env} {m : Nat} (h : e.clock = some m) : e.clockCovers m = true :=
  (Env.clockCovers_some h m).mpr (Nat.le_refl m)

/-- Where RDAXES stands before the read in which its clock stops (R195). -/
theorem axisReadsDone_cut {s : State} {m : Nat} (h : AxisPoint s .x false m) (hclock : s.env.clock = some m) (hm : m < 192)
    (base : Nat) : AxisPoint (s.axisReadsDone base (m / 32)) (axisAt (m / 32)) (highAt (m / 32)) (m % 32)
      ∧ (s.axisReadsDone base (m / 32)).env.clock = some (m % 32) := by
  have hbegin : AxisPoint s (axisAt 0) (highAt 0) (32 * (m / 32) + m % 32) := by rw [Nat.div_add_mod]; exact h
  have hpoint := AxisPoint.after 0 hbegin (by omega) base
  rw [Nat.zero_add] at hpoint
  refine ⟨hpoint, ?_⟩
  rw [axisReadsDone_clock, hclock]
  exact congrArg some (by show m - 32 * (m / 32) = m % 32; omega)

theorem AxisPoint.withClock {s : State} {ai : Axis} {hl : Bool} {m n : Nat} (h : AxisPoint s ai hl m) {c : Option Nat}
    {later : List (Option Nat)} (hc : (s.withClock c later).env.clockCovers n = true) :
    AxisPoint (s.withClock c later) ai hl n := ⟨h.seq, h.shifting, h.enabled, hc, h.ai, h.hl⟩

/-- A read of RDAXES that waits goes on, and its latch follows (R192, R216). -/
theorem axisRead_goes_on {s : State} {ai : Axis} {hl : Bool} {m : Nat} (h : AxisPoint s ai hl m)
    (hclock : s.env.clock = some m) (hm : m < 32) {c : Option Nat} (later : List (Option Nat)) (base : Nat)
    (hc : ClockResumes c m 32) : ((s.axisTransaction base).withClock c later).axisRead base
    = (s.axisReadDone base).withClock (c.map (· - (32 - m))) later := by
  have hframe := axisTransaction_frame s base
  have hread : ((s.axisTransaction base).withClock c later).axisTransaction base
      = (s.framed (header true (axisAddress base s.ai s.hl)) dummyByte).withClock (c.map (· - (32 - m))) later := by
    have hai : ((s.axisTransaction base).withClock c later).ai = s.ai := hframe.ai
    have hhl : ((s.axisTransaction base).withClock c later).hl = s.hl := hframe.hl
    rw [State.axisTransaction, hai, hhl]
    exact transaction_goes_on s true _ dummyByte h.seq h.shifting h.enabled hclock hm hc later
  rw [State.axisRead, hread]
  exact (if_pos rfl).trans (axisLatch_withClock _ _ later)

/-- RDAXES that waits in read k goes on to the end of its reads (R192, R216). -/
theorem runAxes_goes_on {s : State} (base : Nat) {k m : Nat} (hk : k ≤ 5) (h : AxisPoint s (axisAt k) (highAt k) m)
    (hclock : s.env.clock = some m) (hm : m < 32) (hwaits : WaitsForClock (s.axisTransaction base)) {c : Option Nat}
    (hc : ClockResumes c m (32 * (6 - k))) (later : List (Option Nat)) :
    ∃ c', ((s.axisTransaction base).withClock c later).runAxes base = (s.axisReadsDone base (6 - k)).withClock c' later := by
  have hrun : ((s.axisTransaction base).withClock c later).seq ≠ .idle := hwaits.notIdle
  have hread := axisRead_goes_on h hclock hm later base (hc.mono (by omega))
  have hhead : AxisPoint (s.withClock none []) (axisAt k) (highAt k) (32 + 0) := h.withClock rfl
  rw [State.runAxes, State.axisReads, if_neg hrun, hread]
  obtain rfl | hlt : k = 5 ∨ k < 5 := by omega
  · have hretired : ((s.axisReadDone base).withClock (c.map (· - (32 - m))) later).seq = .idle := by
      rw [AxisPoint.last (s := s) h]
      rfl
    exact ⟨_, axisReads_idle hretired base 5⟩
  · have hnext := hhead.next hlt base
    rw [axisReadDone_withClock] at hnext
    have hcovers : ((s.axisReadDone base).withClock (c.map (· - (32 - m))) later).env.clockCovers (32 * (6 - (k + 1))) = true :=
      hc.covers rfl (by omega)
    have hrest := axisReads_rest (by omega) (hnext.withClock hcovers) base k
    rw [show 6 - (k + 1) + k = 5 by omega] at hrest
    rw [show 6 - k = 6 - (k + 1) + 1 by omega]
    exact ⟨_, hrest.trans (axisReadsDone_withClock (s.axisReadDone base) base _ _ later)⟩

/-! ### The steps -/

theorem continueCommand_xfer {u : State} {d : Byte} (hholds : u.holdsWhatItReads = true)
    (hword : decodeCommand u.cmdr = .ok (.xfer d)) : u.continueCommand = .next (u.runXfer d) := by
  rw [State.continueCommand, readable_eq hholds, hword]

theorem continueCommand_rdaxes {u : State} {b : Nat} (hholds : u.holdsWhatItReads = true)
    (hword : decodeCommand u.cmdr = .ok (.rdaxes b)) : u.continueCommand = .next (u.runAxes b) := by
  rw [State.continueCommand, readable_eq hholds, hword]

theorem continueCommand_transaction {i : Instr} {rw : Bool} {a : Nat} {d : Byte} (hi : transactionOf i = some (rw, a, d))
    {u : State} (hholds : u.holdsWhatItReads = true) (hword : decodeCommand u.cmdr = .ok (runsAs i)) :
    u.continueCommand = .next (u.transaction rw a d) := by
  rw [State.continueCommand, readable_eq hholds, hword]
  cases i with
  | rdreg | wrreg | rdframe | wrframe => cases hi; rfl
  | init | select | deselect | xfer | rdaxes => cases hi

/-- The clock comes back, and the command in CMDR goes on from where it waits (R216). -/
theorem WaitsForClock.steps {t w : State} (h : WaitsForClock t) {c : Option Nat} {later : List (Option Nat)}
    (hlater : t.env.clockLater = c :: later) (hc : c ≠ some 0) (hon : t.enabled = true)
    (hgo : (t.withClock c later).continueCommand = .next w) :
    t.seq ≠ .idle ∧ step t = .next (t.withClock c later) ∧ step (t.withClock c later) = .next w := by
  have hrunning : (t.withClock c later).waiting = false := by
    have hclock : (t.withClock c later).env.clockRunning = true := decide_eq_true hc
    have hon' : (t.withClock c later).enabled = true := hon
    rw [State.waiting, hclock, hon']
    exact Bool.and_false _
  refine ⟨h.notIdle, ?_, ?_⟩
  · rw [step_of_busy h.notIdle, State.resume, h.waiting, if_pos rfl, hlater]
    rfl
  · rw [step_of_busy (t := t.withClock c later) h.notIdle, State.resume, hrunning, if_neg Bool.false_ne_true, hgo]

/-- A clock that stops before the last edge of a command makes it wait (R134, R195). -/
theorem exec_waits {i : Instr} {s t : State} (h : exec i s = .next t) {m : Nat} (hclock : s.env.clock = some m)
    (hm : m < edgesNeeded i) : WaitsForClock t := by
  obtain ⟨-, hcovers, -⟩ | hwaits := exec_retired_or_waits h
  · exact absurd ((Env.clockCovers_some hclock _).mp hcovers) (Nat.not_le_of_lt hm)
  · exact hwaits

/-- What is left to show of a command: where it waits, and what going on from there leaves. -/
theorem goes_on_of_waits {i : Instr} {s t v w : State} {m : Nat} {c : Option Nat} {later : List (Option Nat)} (hinv : Inv s)
    (hi : WellFormed i = true) (hinit : ∀ cfg, i ≠ .init cfg)
    (hexec : exec i (s.withClock (some m) (c :: later)) = .next t) (hm : m < edgesNeeded i) (hc : c ≠ some 0)
    (hgo : (t.withClock c later).holdsWhatItReads = true → decodeCommand (t.withClock c later).cmdr = .ok (runsAs i) →
      (t.withClock c later).continueCommand = .next w)
    (hw : w.withClock none [] = v) :
    ∃ t u w, exec i (s.withClock (some m) (c :: later)) = .next t ∧ t.seq ≠ .idle
      ∧ step t = .next u ∧ step u = .next w ∧ w.withClock none [] = v := by
  have ht : Inv t := exec_inv (hinv.congr _ _ _) hexec
  have hwaits : WaitsForClock t := exec_waits hexec rfl hm
  obtain ⟨-, -, -, -, hholds, -⟩ := ht.atWork hwaits.notIdle
  obtain ⟨first, hframe⟩ := exec_bodyFrame hinit hexec
  have hword : decodeCommand t.cmdr = .ok (runsAs i) := by
    rw [hframe.cmdr]
    exact decodeCommand_commandWord hi
  obtain ⟨hrun, hclock, hstep⟩ := hwaits.steps hframe.clockLater hc (ht.running hwaits.notIdle).enabled (hgo hholds hword)
  exact ⟨t, _, w, hexec, hrun, hclock, hstep, hw⟩

/-! ### The obligation -/

theorem accept_withClock (s : State) (w : CommandWord) (first : Seq) (c : Option Nat) (later : List (Option Nat)) :
    (s.withClock c later).accept w first = (s.accept w first).withClock c later := rfl

theorem axesAccepted_withClock (s : State) (base : Nat) (c : Option Nat) (later : List (Option Nat)) :
    (s.withClock c later).axesAccepted base = (s.axesAccepted base).withClock c later := rfl

theorem withClock_withClock (s : State) (c c' : Option Nat) (later later' : List (Option Nat)) :
    (s.withClock c later).withClock c' later' = s.withClock c' later' := rfl

section
variable {s v : State} {m : Nat} {c : Option Nat} (later : List (Option Nat)) (hinv : Inv s)
include hinv

theorem xfer_goes_on {d : Byte} (hv : exec (.xfer d) (s.withClock none []) = .next v) (hm : m < 16)
    (hc : ClockResumes c m 16) : ∃ t u w, exec (.xfer d) (s.withClock (some m) (c :: later)) = .next t ∧ t.seq ≠ .idle
      ∧ step t = .next u ∧ step u = .next w ∧ w.withClock none [] = v := by
  obtain ⟨hidle, hon, -⟩ := exec_xfer_next.mp hv
  rw [exec_xfer_complete hidle hon rfl d] at hv
  refine goes_on_of_waits hinv rfl (fun _ => Instr.noConfusion)
    (exec_xfer_cut (s := s.withClock (some m) (c :: later)) hidle hon rfl hm d) hm (hc.ne_zero hm) continueCommand_xfer ?_
  rw [State.runXfer, transfer_goes_on ((s.withClock (some m) (c :: later)).accept _ .data) d hon hm hc later, advance_done rfl,
    ← Host.Outcome.next.inj hv]
  rfl

theorem transactionInstr_goes_on {i : Instr} {rw : Bool} {a : Nat} {d : Byte} (hbody : transactionOf i = some (rw, a, d))
    (hv : exec i (s.withClock none []) = .next v) (hm : m < edgesNeeded i) (hc : ClockResumes c m (edgesNeeded i)) :
    ∃ t u w, exec i (s.withClock (some m) (c :: later)) = .next t ∧ t.seq ≠ .idle
      ∧ step t = .next u ∧ step u = .next w ∧ w.withClock none [] = v := by
  obtain ⟨hs, ha, -⟩ := (exec_transaction_next hbody).mp hv
  have hs' : (s.withClock (some m) (c :: later)).ready = true := hs
  rw [exec_transaction_complete hbody hs (addressInRange_iff.mp ha) rfl] at hv
  refine goes_on_of_waits hinv (wellFormed_transaction hbody ha) (fun cfg hinit => by rw [hinit] at hbody; cases hbody)
    ((exec_transaction_next hbody).mpr ⟨hs', ha, rfl⟩) hm (hc.ne_zero hm) (continueCommand_transaction hbody) ?_
  rw [edgesNeeded_transaction hbody] at hm hc
  rw [transaction_goes_on ((s.withClock (some m) (c :: later)).accept _ .select) rw a d rfl rfl (enabled_of_ready (s := s) hs)
    rfl hm hc later, ← Host.Outcome.next.inj hv, accept_withClock, accept_withClock, framed_withClock, framed_withClock,
    withClock_withClock, withClock_withClock]
  rfl

theorem rdaxes_goes_on {b : Nat} (hv : exec (.rdaxes b) (s.withClock none []) = .next v) (hm : m < 192)
    (hc : ClockResumes c m 192) : ∃ t u w, exec (.rdaxes b) (s.withClock (some m) (c :: later)) = .next t ∧ t.seq ≠ .idle
      ∧ step t = .next u ∧ step u = .next w ∧ w.withClock none [] = v := by
  obtain ⟨hs, hb, -⟩ := exec_rdaxes_next.mp hv
  rw [exec_rdaxes_complete hs (baseInRange_iff.mp hb) rfl] at hv
  have hbegin : AxisPoint ((s.withClock (some m) (c :: later)).axesAccepted b) .x false m :=
    axesAccepted_point (s := s.withClock (some m) (c :: later)) hs b (clockCovers_self rfl)
  obtain ⟨t, hcut, ht, hwaits, -⟩ :=
    exec_rdaxes_cut (s := s.withClock (some m) (c :: later)) hs (baseInRange_iff.mp hb) rfl hm
  obtain ⟨hpoint, hclock⟩ := axisReadsDone_cut hbegin rfl hm b
  rw [ht] at hwaits
  obtain ⟨c', hgo⟩ := runAxes_goes_on b (by omega) hpoint hclock (Nat.mod_lt m (by decide)) hwaits
    (hc.mono (by omega)) later
  rw [← ht] at hgo
  refine goes_on_of_waits hinv (wellFormed_rdaxes hb) (fun _ => Instr.noConfusion) hcut hm (hc.ne_zero hm)
    continueCommand_rdaxes ?_
  rw [hgo, ← axisReadsDone_add, show m / 32 + (6 - m / 32) = 6 by omega, ← Host.Outcome.next.inj hv,
    axesAccepted_withClock, axesAccepted_withClock, axisReadsDone_withClock, axisReadsDone_withClock, withClock_withClock,
    withClock_withClock]
  rfl

end

/-- Settles O29: the state a command waits in, gone on from with the rest of the clock, gives the complete command's next
state but for the clock. -/
theorem aWaitingCommandGoesOnWhereItStood : Obligations.AWaitingCommandGoesOnWhereItStood := by
  intro i s v m c later hinv hidle hv hm hc
  cases bodyKind i with
  | init | select | deselect => exact absurd hm (Nat.not_lt_zero m)
  | xfer d => exact xfer_goes_on later hinv hv hm hc
  | transaction hbody => exact transactionInstr_goes_on later hinv hbody hv hm hc
  | rdaxes b => exact rdaxes_goes_on later hinv hv hm hc

end Sys2Proof.Machine
end
